-- ==== Sys2Proof/Word.lean ====
section
/-! DEFINITION. The trit, the trit word of a declared length, its integer value, and the raw word a FRAM load
returns (spec 00_scope.md R10 to R13, 10_state.md R31, 20_memory.md R78). The ALU over them is Machine/Alu.lean. -/

namespace Sys2Proof

/-- A trit: -1, 0 or +1 (R10). A three-valued type, so the flag pair (nonzero = false, sign = true) that R31 calls an
invariant violation cannot be written down (decision D27). -/
inductive Trit where
  | neg
  | zero
  | pos
  deriving DecidableEq, Repr, Inhabited

/-- The integer a trit stands for (R10). -/
def Trit.toInt : Trit → Int
  | .neg => -1
  | .zero => 0
  | .pos => 1

/-- The trit with the sign of an integer. -/
def Trit.ofSign (n : Int) : Trit :=
  if n < 0 then .neg else if 0 < n then .pos else .zero

/-- A word of declared length `L`: its trits, most significant first, so the list's first entry is Setun
position 1 (R10, R11). -/
structure Word (L : Nat) where
  trits : List Trit
  length_eq : trits.length = L
  deriving DecidableEq, Repr

namespace Word

/-- `0^L`, the word of `L` zero trits (R14). -/
def zero (L : Nat) : Word L := ⟨List.replicate L .zero, List.length_replicate⟩

/-- `val(w)` (R13), by Horner's scheme from the most significant trit. -/
def val {L : Nat} (w : Word L) : Int :=
  w.trits.foldl (fun acc t => 3 * acc + t.toInt) 0

end Word

/-- `H_L = (3^L - 1)/2`, the largest magnitude an `L`-trit word holds (R13). -/
def halfRange (L : Nat) : Int := (3 ^ L - 1) / 2

/-- The raw word a FRAM load returns: 9 trits for a short access, 18 for a long one (R78). It is also the shape of the
scratch register MR, whose declared length is 9 or 18 (10_state.md R40). -/
inductive RawWord where
  | short (w : Word 9)
  | long (w : Word 18)
  deriving DecidableEq, Repr

end Sys2Proof
end

