-- ==== Sys2Proof/Config.lean ====
section
/-! DEFINITION. The free values: what the spec leaves unspecified after a step, and the one loader parameter it gives
no default for. Each is an opaque constant without a body, so no proof can use what it is.

The named parameters of 00_scope.md R9 stand at the value the spec takes, in the definition that uses each:
ROW_WEIGHTS in `Machine.row`, SHORT_LOAD_PLACEMENT in `RawWord.to18`, MUL_SELECT in `mulSel`, XOR_TABLE in `Trit.xor`,
LONG_ROW80_POLICY in `Machine.framLoad` and `Machine.framStore`, FETCH_NEG_ZONE_POLICY in `Machine.fetchWord`. The two
open ones are arguments: LOAD_BASE of `Machine.loadWords`, FUEL of `Machine.hostRun`. -/

namespace Sys2Proof

/-- Whether MR's declared length after the `n`-th free choice is 18 (else 9): unspecified by 10_state.md R40
(log entry 2, DESIGN CHOICE, safe). -/
opaque Config.mrIsLong : Nat → Bool

/-- The trits of MR after the `n`-th free choice: unspecified by R40 (log entry 2, DESIGN CHOICE, safe). -/
opaque Config.mrTrit : Nat → Int → Trit

/-- ph1 after the overflow-checked instruction that makes the `n`-th free choice: unspecified by R41 (log entry 3,
DESIGN CHOICE, safe). -/
opaque Config.ph1After : Nat → Trit

/-- ph2, likewise (R41, log entry 3). -/
opaque Config.ph2After : Nat → Trit

/-- NONARY_DEFAULT, the trit pair of a character outside the nonary alphabet: 40_alu.md R162 says the table has a
default and does not give it (log entry 9, DESIGN CHOICE, safe). -/
opaque Config.nonaryDefaultPair : Trit × Trit

/-- NONARY_DEFAULT in the other direction: the symbol of a value outside -4..4 (R162, log entry 9). -/
opaque Config.nonaryDefaultSymbol : Char

end Sys2Proof
end

