-- ==== Sys2Proof/Machine/Alu.lean ====
section
/-! DEFINITION. The Ternary Value Engine (40_alu.md): trit logic, the full adder, position access and slices,
arithmetic, shift, sign and the conversions. Every function is pure and total (R140). -/

namespace Sys2Proof

/-! ### Trit logic (R141 to R144) -/

/-- R141. -/
def Trit.not : Trit → Trit
  | .neg => .pos
  | .zero => .zero
  | .pos => .neg

/-- R142: the product of two trits. -/
def Trit.and : Trit → Trit → Trit
  | .neg, .neg => .pos
  | .neg, .pos => .neg
  | .pos, .neg => .neg
  | .pos, .pos => .pos
  | .zero, _ => .zero
  | _, .zero => .zero

/-- R143, the table of max. The source gives two cells, the rest is decision D11 (log entry 21). No instruction
uses it. -/
def Trit.or : Trit → Trit → Trit
  | .pos, _ => .pos
  | _, .pos => .pos
  | .zero, _ => .zero
  | _, .zero => .zero
  | .neg, .neg => .neg

/-- R144, XOR_TABLE as the spec takes it. The cells (-,+), (+,-), (-,0) and (+,0) are decision D10 (log entry 20). -/
def Trit.xor : Trit → Trit → Trit
  | .neg, .neg => .pos
  | .neg, .zero => .pos
  | .neg, .pos => .zero
  | .zero, .neg => .pos
  | .zero, .zero => .zero
  | .zero, .pos => .neg
  | .pos, .neg => .zero
  | .pos, .zero => .neg
  | .pos, .pos => .neg

/-- R146's table from a sum to (sum trit, carry trit), with R147's (0, 0) outside -3..3. -/
def fullAddOfSum (n : Int) : Trit × Trit :=
  if n = -3 then (.zero, .neg)
  else if n = -2 then (.pos, .neg)
  else if n = -1 then (.neg, .zero)
  else if n = 0 then (.zero, .zero)
  else if n = 1 then (.pos, .zero)
  else if n = 2 then (.neg, .pos)
  else if n = 3 then (.zero, .pos)
  else (.zero, .zero)

/-- R146: `full_add(a, b, c) = (sum, carry)`. -/
def fullAdd (a b c : Trit) : Trit × Trit := fullAddOfSum (a.toInt + b.toInt + c.toInt)

namespace Word

variable {L : Nat}

/-! ### Position access (R148, R149) -/

/-- `get_s(w, i)`: the trit at Setun position `i`, written `w[i]` in the spec, and 0 outside 1..L (R149, R11). -/
def get (w : Word L) (i : Int) : Trit :=
  if 1 ≤ i then w.trits.getD (i - 1).toNat .zero else .zero

/-- The word whose Setun position `i` holds `f i`, for every i in 1..L. -/
def ofFn (L : Nat) (f : Int → Trit) : Word L :=
  ⟨(List.range L).map fun (k : Nat) => f ((k : Int) + 1), by simp⟩

/-- `get_g(w, k)`: the trit at generic position `k`, and 0 outside 0..L-1 (R148, R12). -/
def getG (w : Word L) (k : Int) : Trit := w.get (L - k)

/-- `set_s(w, i, t)` (R149): position `i` replaced when it is in 1..L, else the word unchanged. -/
def setS (w : Word L) (i : Int) (t : Trit) : Word L :=
  ofFn L fun j => if j = i then t else w.get j

/-- `set_g(w, k, t)` (R148). -/
def setG (w : Word L) (k : Int) (t : Trit) : Word L := w.setS (L - k) t

/-! ### Sub-words (R11, R14, R150, R155) -/

/-- The sub-word of `len` trits from Setun position `start`: `w[start : start+len-1]` (R11). -/
def slice (w : Word L) (start len : Nat) : Word len :=
  ofFn len fun i => w.get (start - 1 + i)

/-- `slice(w, from, to)` in generic positions (R150), as its trits most significant first. Out of range, a negative
`from` included (decision D31, log entry 30), the word unchanged. -/
def sliceGeneric (w : Word L) (lo hi : Int) : List Trit :=
  if lo > hi ∨ lo < 0 ∨ hi ≥ L then w.trits
  else (List.range (hi - lo + 1).toNat).map fun (j : Nat) => w.getG (hi - (j : Int))

/-- `slice_setun(w, from, to)` (R155), as its trits most significant first. -/
def sliceSetun (w : Word L) (first last : Int) : List Trit :=
  if first > last ∨ first < 1 ∨ last > L then w.trits
  else (List.range (last - first + 1).toNat).map fun (j : Nat) => w.get (first + (j : Int))

/-- `a ‖ b` (R14): `a` supplies the more significant positions. -/
def append {m n : Nat} (a : Word m) (b : Word n) : Word (m + n) :=
  ⟨a.trits ++ b.trits, by rw [List.length_append, a.length_eq, b.length_eq]⟩

/-- A long word from its two halves (20_memory.md R77): `hi` in positions 1-9, `lo` in positions 10-18. -/
def long (hi lo : Word 9) : Word 18 := hi.append lo

/-- A 9-trit word in positions 1-9 of an 18-trit one, `w ‖ 0^9` (20_memory.md R79, 43_multiply.md R259). -/
def atHigh (w : Word 9) : Word 18 := long w (zero 9)

/-! ### Integers (R13, R156, R159) -/

/-- The `L` least significant balanced-ternary digits of `n`, most significant first. -/
def digits : Nat → Int → List Trit
  | 0, _ => []
  | k + 1, n => digits k ((n + 1) / 3) ++ [Trit.ofSign ((n + 1) % 3 - 1)]

theorem digits_length (k : Nat) (n : Int) : (digits k n).length = k := by
  induction k generalizing n with
  | zero => rfl
  | succ k ih => simp [digits, ih]

/-- `word_L(n)` (R13), the source's `int_to_word` (R159). `word_to_int` is `Word.val`.
Irreducible, so that comparing two states does not compute it; `unfold` and the kernel still do. -/
@[irreducible] def ofInt (L : Nat) (n : Int) : Word L := ⟨digits L n, digits_length L n⟩

/-- `copy_resize(w, n)`, written `trunc_n(w)` (R156): generic positions 0..n-1 are copied, and those at or above the
source's length are zero. -/
def resize (n : Nat) (w : Word L) : Word n :=
  ofFn n fun i => w.getG (n - i)

/-! ### Word logic (R145) -/

/-- R145. -/
def not (w : Word L) : Word L := ofFn L fun i => (w.get i).not

/-- R145. -/
def and (x y : Word L) : Word L := ofFn L fun i => (x.get i).and (y.get i)

/-- R145. -/
def or (x y : Word L) : Word L := ofFn L fun i => (x.get i).or (y.get i)

/-- R145, the operation of opcode +6. -/
def xor (x y : Word L) : Word L := ofFn L fun i => (x.get i).xor (y.get i)

/-! ### Sign and shift (R157, R160) -/

/-- The first nonzero trit of a list, or 0. -/
def firstNonzero : List Trit → Trit
  | [] => .zero
  | t :: ts => if t = .zero then firstNonzero ts else t

/-- `sgn(w)`, the source's `sign` (R160): the most significant nonzero trit, or 0. -/
def sgn (w : Word L) : Trit := firstNonzero w.trits

/-- `shift(w, d)` (R157): d > 0 toward the least significant end, zero fill (decision D32, log entry 31). -/
def shift (w : Word L) (d : Int) : Word L := ofFn L fun i => w.get (i - d)

/-! ### Arithmetic (R151 to R154, R163) -/

/-- `neg(w)` (R153). -/
def neg (w : Word L) : Word L := w.not

/-- The ripple of R151 from generic position `k` with carry `c` through the next `n` positions, most significant
first; the carry out of the last is dropped. -/
def rippleFrom (x y : Int → Trit) : Nat → Int → Trit → List Trit
  | 0, _, _ => []
  | n + 1, k, c =>
    rippleFrom x y n (k + 1) (fullAdd (x k) (y k) c).2 ++ [(fullAdd (x k) (y k) c).1]

theorem rippleFrom_length (x y : Int → Trit) (n : Nat) (k : Int) (c : Trit) :
    (rippleFrom x y n k c).length = n := by
  induction n generalizing k c with
  | zero => rfl
  | succ n ih => simp [rippleFrom, ih]

/-- The source's ripple-carry addition at length `L` (R151): operands of another length are read with zeros above
their length. -/
def rippleAdd {m n : Nat} (L : Nat) (a : Word m) (b : Word n) : Word L :=
  ⟨rippleFrom a.getG b.getG L 0 .zero, rippleFrom_length ..⟩

/-- The source's shift-and-add multiplication at length `L` (R154), after the `k` least significant trits of the
multiplier `b`. -/
def shiftAddMul {n : Nat} (x : Word L) (b : Word n) : Nat → Word L
  | 0 => zero L
  | k + 1 =>
    match b.getG k with
    | .zero => shiftAddMul x b k
    | .pos => rippleAdd L (shiftAddMul x b k) (x.shift (-k))
    | .neg => rippleAdd L (shiftAddMul x b k) (x.shift (-k)).neg

/-- `add(a, b)` as R151 concludes it: the sum's low max(len a, len b) trits. -/
def add {m n : Nat} (a : Word m) (b : Word n) : Word (max m n) := ofInt (max m n) (a.val + b.val)

/-- `sub(a, b)` (R152). -/
def sub {m n : Nat} (a : Word m) (b : Word n) : Word (max m n) := ofInt (max m n) (a.val - b.val)

/-- `mul(a, b)` as R154 concludes it: the exact product, of length 2·max(len a, len b). -/
def mul {m n : Nat} (a : Word m) (b : Word n) : Word (2 * max m n) :=
  ofInt (2 * max m n) (a.val * b.val)

/-- `div` is the source's stub, "a zero word of length 0" (R163). No opcode calls it. -/
def div {m n : Nat} (_ : Word m) (_ : Word n) : Word 0 := zero 0

end Word

/-- `MulSel(x, y) = P[1:9] ‖ 0^9` with P the 36-trit product (43_multiply.md R259). MUL_SELECT as the spec takes it,
decision D8 (log entry 18). -/
@[irreducible] def mulSel (x y : Word 18) : Word 18 := ((x.mul y).slice 1 9).atHigh

/-! ### Symbolic conversion (R161) -/

/-- The symbol of a trit. -/
def Trit.toSymbol : Trit → Char
  | .neg => '-'
  | .zero => '0'
  | .pos => '+'

/-- The trit of a symbol, if it is one. -/
def Trit.ofSymbol (c : Char) : Option Trit :=
  if c = '-' then some .neg else if c = '0' then some .zero else if c = '+' then some .pos else none

/-- The word as symbols, most significant first (R161). -/
def Word.toSymbols {L : Nat} (w : Word L) : List Char := w.trits.map Trit.toSymbol

/-- The trits of a string of symbols, one for each character; none where a character is no symbol. -/
def tritsOfSymbols : List Char → Option (List Trit)
  | [] => some []
  | c :: cs =>
    match Trit.ofSymbol c, tritsOfSymbols cs with
    | some t, some ts => some (t :: ts)
    | _, _ => none

/-- The word a string of up to 32 symbols stands for (R161), as its trits: the declared length is the string's. -/
def symbolsToWord (cs : List Char) : Option (List Trit) :=
  if cs.length ≤ 32 then tritsOfSymbols cs else none

/-! ### Nonary conversion (R162, 30_encoding.md R117) -/

/-- Digit value to symbol: -4..4 to W, X, Y, Z, 0, 1, 2, 3, 4, and the unnamed default elsewhere. -/
def nonarySymbol (v : Int) : Char :=
  if v = -4 then 'W' else if v = -3 then 'X' else if v = -2 then 'Y' else if v = -1 then 'Z'
  else if v = 0 then '0' else if v = 1 then '1' else if v = 2 then '2' else if v = 3 then '3'
  else if v = 4 then '4' else Config.nonaryDefaultSymbol

/-- Symbol to its two trits, the more significant first, and the unnamed default for any other character. -/
def nonaryPair (c : Char) : Trit × Trit :=
  if c = 'W' then (.neg, .neg) else if c = 'X' then (.neg, .zero) else if c = 'Y' then (.neg, .pos)
  else if c = 'Z' then (.zero, .neg) else if c = '0' then (.zero, .zero) else if c = '1' then (.zero, .pos)
  else if c = '2' then (.pos, .neg) else if c = '3' then (.pos, .zero) else if c = '4' then (.pos, .pos)
  else Config.nonaryDefaultPair

end Sys2Proof
end

