-- ==== Sys2Proof/Syntax.lean ====
section
/-! DEFINITION. The instruction set's syntax (30_encoding.md R111, R114): one constructor for each of the 27 opcode
codes, each with the word's address field `a` = K[1:5] and modification trit `m` = K[9]. -/

namespace Sys2Proof

/-- One instruction word, decoded. The fields are the same for every code, those that ignore the address included
(R116). The three reserved codes share the mnemonic RSV and are told apart by their code. -/
inductive Instr where
  /-- +13 MULA (43_multiply.md R263) -/
  | mula (a : Word 5) (m : Trit)
  /-- +12 MUL (43_multiply.md R260) -/
  | mul (a : Word 5) (m : Trit)
  /-- +11 MULB (43_multiply.md R266) -/
  | mulb (a : Word 5) (m : Trit)
  /-- +10 ADD (42_accumulator.md R233) -/
  | add (a : Word 5) (m : Trit)
  /-- +9 LDS (42_accumulator.md R230) -/
  | lds (a : Word 5) (m : Trit)
  /-- +8 SUB (42_accumulator.md R236) -/
  | sub (a : Word 5) (m : Trit)
  /-- +7 LDR (42_accumulator.md R242) -/
  | ldr (a : Word 5) (m : Trit)
  /-- +6 XOR (42_accumulator.md R239) -/
  | xor (a : Word 5) (m : Trit)
  /-- +5 HLT (42_accumulator.md R245) -/
  | hlt (a : Word 5) (m : Trit)
  /-- +4 BP (44_control.md R283) -/
  | bp (a : Word 5) (m : Trit)
  /-- +3 BZ (44_control.md R280) -/
  | bz (a : Word 5) (m : Trit)
  /-- +2 BN (44_control.md R286) -/
  | bn (a : Word 5) (m : Trit)
  /-- +1 STC (44_control.md R290) -/
  | stc (a : Word 5) (m : Trit)
  /-- 0 JMP (44_control.md R289) -/
  | jmp (a : Word 5) (m : Trit)
  /-- -1 STF (45_index.md R300) -/
  | stf (a : Word 5) (m : Trit)
  /-- -2 LFC (45_index.md R306) -/
  | lfc (a : Word 5) (m : Trit)
  /-- -3 LDF (45_index.md R303) -/
  | ldf (a : Word 5) (m : Trit)
  /-- -4 ADF (45_index.md R309) -/
  | adf (a : Word 5) (m : Trit)
  /-- -5 STS (46_shift_store_norm.md R323) -/
  | sts (a : Word 5) (m : Trit)
  /-- -6 SHF (46_shift_store_norm.md R320) -/
  | shf (a : Word 5) (m : Trit)
  /-- -7 NRM (46_shift_store_norm.md R326) -/
  | nrm (a : Word 5) (m : Trit)
  /-- -8 F2D (47_transfer_io.md R340) -/
  | f2d (a : Word 5) (m : Trit)
  /-- -9 IO (47_transfer_io.md R345) -/
  | io (a : Word 5) (m : Trit)
  /-- -10 D2F (47_transfer_io.md R342) -/
  | d2f (a : Word 5) (m : Trit)
  /-- -11 RSV (47_transfer_io.md R347) -/
  | rsv11 (a : Word 5) (m : Trit)
  /-- -12 RSV (47_transfer_io.md R347) -/
  | rsv12 (a : Word 5) (m : Trit)
  /-- -13 RSV (47_transfer_io.md R347) -/
  | rsv13 (a : Word 5) (m : Trit)
  deriving DecidableEq, Repr

end Sys2Proof
end

