-- ==== Sys2Proof/WellFormed.lean ====
section
/-! DEFINITION. Well-formedness of what comes from outside as plain numbers. An `Instr` needs no check of its own: its
fields are a 5-trit word and a trit, and 30_encoding.md R116 requires no field to hold a particular value. What can be
ill formed is a word given as bits, two flags for each trit (10_state.md R31; the layout is log entry 7). -/

namespace Sys2Proof

/-- The two bits of generic position `k`: bit 0 the flag "nonzero", bit 1 the flag "sign". -/
def flagPair (bits k : Nat) : Nat := bits / 4 ^ k % 4

/-- No bit stands beyond the nine trits of an instruction word (30_encoding.md R110). -/
def fitsNineTrits (bits : Nat) : Bool := decide (bits < 4 ^ 9)

/-- None of the nine flag pairs is (nonzero = false, sign = true), which "must never be produced" (10_state.md R31). -/
def noIllegalPair (bits : Nat) : Bool := (List.range 9).all fun k => flagPair bits k != 2

/-- A number that is the bit form of a 9-trit word. -/
def wellFormedBits (bits : Nat) : Bool := fitsNineTrits bits && noIllegalPair bits

end Sys2Proof
end

