-- ==== Sys2Proof/Decode.lean ====
section
/-! DEFINITION. The decoder and, after it, the encoder (30_encoding.md R110 to R116, 41_cycle.md R203). Any 9-trit word
decodes (R116); what is rejected, by name, is a number that is not the bit form of a 9-trit word (10_state.md R31, log
entry 7). -/

namespace Sys2Proof

/-! ### Decoding a word -/

/-- The opcode value `9·K[6] + 3·K[7] + K[8]` (R112, R203). -/
def opcodeValue (K : Word 9) : Int := 9 * (K.get 6).toInt + 3 * (K.get 7).toInt + (K.get 8).toInt

/-- The instruction of an opcode pattern K[6:8] (R114), with its address field and modification trit. The 27 patterns
cover every case, so there is no default (41_cycle.md R206). -/
def decodeFields (o6 o7 o8 : Trit) (a : Word 5) (m : Trit) : Instr :=
  match o6, o7, o8 with
  | .pos, .pos, .pos => .mula a m
  | .pos, .pos, .zero => .mul a m
  | .pos, .pos, .neg => .mulb a m
  | .pos, .zero, .pos => .add a m
  | .pos, .zero, .zero => .lds a m
  | .pos, .zero, .neg => .sub a m
  | .pos, .neg, .pos => .ldr a m
  | .pos, .neg, .zero => .xor a m
  | .pos, .neg, .neg => .hlt a m
  | .zero, .pos, .pos => .bp a m
  | .zero, .pos, .zero => .bz a m
  | .zero, .pos, .neg => .bn a m
  | .zero, .zero, .pos => .stc a m
  | .zero, .zero, .zero => .jmp a m
  | .zero, .zero, .neg => .stf a m
  | .zero, .neg, .pos => .lfc a m
  | .zero, .neg, .zero => .ldf a m
  | .zero, .neg, .neg => .adf a m
  | .neg, .pos, .pos => .sts a m
  | .neg, .pos, .zero => .shf a m
  | .neg, .pos, .neg => .nrm a m
  | .neg, .zero, .pos => .f2d a m
  | .neg, .zero, .zero => .io a m
  | .neg, .zero, .neg => .d2f a m
  | .neg, .neg, .pos => .rsv11 a m
  | .neg, .neg, .zero => .rsv12 a m
  | .neg, .neg, .neg => .rsv13 a m

/-- Decode a fetched word: `aaaaa ooo m` (R111). -/
def decode (K : Word 9) : Instr := decodeFields (K.get 6) (K.get 7) (K.get 8) (K.slice 1 5) (K.get 9)

/-! ### The bit form of a word (log entry 7) -/

/-- The trit of a flag pair: bit 0 "nonzero", bit 1 "sign" (set for -1). -/
def tritOfPair (p : Nat) : Trit := if p = 1 then .pos else if p = 3 then .neg else .zero

/-- The flag pair of a trit. -/
def pairOfTrit : Trit → Nat
  | .neg => 3
  | .zero => 0
  | .pos => 1

/-- The 9-trit word of a number, generic position k in bits 2k and 2k+1. -/
def wordOfBits (bits : Nat) : Word 9 := Word.ofFn 9 fun i => tritOfPair (flagPair bits (9 - i).toNat)

/-- The number of a 9-trit word. -/
def bitsOfWord (w : Word 9) : Nat := w.trits.foldl (fun acc t => 4 * acc + pairOfTrit t) 0

/-- Why a number is no instruction word. -/
inductive DecodeError where
  /-- a bit stands beyond the nine trits -/
  | bitsBeyondWord
  /-- a flag pair is (nonzero = false, sign = true), an "invariant violation" (10_state.md R31) -/
  | illegalFlagPair
  deriving DecidableEq, Repr

/-- The word of a number, or why it is none. -/
def wordOfTableBits (bits : Nat) : Except DecodeError (Word 9) :=
  if fitsNineTrits bits then
    if noIllegalPair bits then .ok (wordOfBits bits) else .error .illegalFlagPair
  else .error .bitsBeyondWord

/-- Decode a number. -/
def decodeBits (bits : Nat) : Except DecodeError Instr :=
  match wordOfTableBits bits with
  | .ok w => .ok (decode w)
  | .error e => .error e

/-- The host's question: the instruction read from the bits `w` of a table row. The table gives its rows in trits, not
in bits, so the number of bits does not matter. -/
def decodeTableWord (_ w : Nat) : Option Instr := (decodeBits w).toOption

/-! ### The encoder -/

/-- The address field K[1:5]. -/
def Instr.address : Instr → Word 5
  | .mula a _ => a
  | .mul a _ => a
  | .mulb a _ => a
  | .add a _ => a
  | .lds a _ => a
  | .sub a _ => a
  | .ldr a _ => a
  | .xor a _ => a
  | .hlt a _ => a
  | .bp a _ => a
  | .bz a _ => a
  | .bn a _ => a
  | .stc a _ => a
  | .jmp a _ => a
  | .stf a _ => a
  | .lfc a _ => a
  | .ldf a _ => a
  | .adf a _ => a
  | .sts a _ => a
  | .shf a _ => a
  | .nrm a _ => a
  | .f2d a _ => a
  | .io a _ => a
  | .d2f a _ => a
  | .rsv11 a _ => a
  | .rsv12 a _ => a
  | .rsv13 a _ => a

/-- The modification trit K[9]. -/
def Instr.modifier : Instr → Trit
  | .mula _ m => m
  | .mul _ m => m
  | .mulb _ m => m
  | .add _ m => m
  | .lds _ m => m
  | .sub _ m => m
  | .ldr _ m => m
  | .xor _ m => m
  | .hlt _ m => m
  | .bp _ m => m
  | .bz _ m => m
  | .bn _ m => m
  | .stc _ m => m
  | .jmp _ m => m
  | .stf _ m => m
  | .lfc _ m => m
  | .ldf _ m => m
  | .adf _ m => m
  | .sts _ m => m
  | .shf _ m => m
  | .nrm _ m => m
  | .f2d _ m => m
  | .io _ m => m
  | .d2f _ m => m
  | .rsv11 _ m => m
  | .rsv12 _ m => m
  | .rsv13 _ m => m

/-- The opcode pattern K[6:8] (R114). -/
def Instr.opcode : Instr → Trit × Trit × Trit
  | .mula _ _ => (.pos, .pos, .pos)
  | .mul _ _ => (.pos, .pos, .zero)
  | .mulb _ _ => (.pos, .pos, .neg)
  | .add _ _ => (.pos, .zero, .pos)
  | .lds _ _ => (.pos, .zero, .zero)
  | .sub _ _ => (.pos, .zero, .neg)
  | .ldr _ _ => (.pos, .neg, .pos)
  | .xor _ _ => (.pos, .neg, .zero)
  | .hlt _ _ => (.pos, .neg, .neg)
  | .bp _ _ => (.zero, .pos, .pos)
  | .bz _ _ => (.zero, .pos, .zero)
  | .bn _ _ => (.zero, .pos, .neg)
  | .stc _ _ => (.zero, .zero, .pos)
  | .jmp _ _ => (.zero, .zero, .zero)
  | .stf _ _ => (.zero, .zero, .neg)
  | .lfc _ _ => (.zero, .neg, .pos)
  | .ldf _ _ => (.zero, .neg, .zero)
  | .adf _ _ => (.zero, .neg, .neg)
  | .sts _ _ => (.neg, .pos, .pos)
  | .shf _ _ => (.neg, .pos, .zero)
  | .nrm _ _ => (.neg, .pos, .neg)
  | .f2d _ _ => (.neg, .zero, .pos)
  | .io _ _ => (.neg, .zero, .zero)
  | .d2f _ _ => (.neg, .zero, .neg)
  | .rsv11 _ _ => (.neg, .neg, .pos)
  | .rsv12 _ _ => (.neg, .neg, .zero)
  | .rsv13 _ _ => (.neg, .neg, .neg)

/-- The opcode's value as R114's table numbers it. -/
def Instr.code : Instr → Int
  | .mula _ _ => 13
  | .mul _ _ => 12
  | .mulb _ _ => 11
  | .add _ _ => 10
  | .lds _ _ => 9
  | .sub _ _ => 8
  | .ldr _ _ => 7
  | .xor _ _ => 6
  | .hlt _ _ => 5
  | .bp _ _ => 4
  | .bz _ _ => 3
  | .bn _ _ => 2
  | .stc _ _ => 1
  | .jmp _ _ => 0
  | .stf _ _ => -1
  | .lfc _ _ => -2
  | .ldf _ _ => -3
  | .adf _ _ => -4
  | .sts _ _ => -5
  | .shf _ _ => -6
  | .nrm _ _ => -7
  | .f2d _ _ => -8
  | .io _ _ => -9
  | .d2f _ _ => -10
  | .rsv11 _ _ => -11
  | .rsv12 _ _ => -12
  | .rsv13 _ _ => -13

/-- The word `aaaaa ‖ op ‖ m` of an instruction (R111, R119). -/
def encode (i : Instr) : Word 9 :=
  i.address.append ⟨[i.opcode.1, i.opcode.2.1, i.opcode.2.2, i.modifier], rfl⟩

end Sys2Proof
end

