-- ==== Sys2Proof/Machine/State.lean ====
section
/-! DEFINITION. The machine state (10_state.md R30 to R45), the reasons a step can stop, and the state after reset
(70_reset_and_hazards.md R392). -/

namespace Sys2Proof.Machine

/-- The run status (10_state.md R42, 41_cycle.md R215). -/
inductive Status where
  | running
  | stopDone
  | stopOver
  | stopError
  deriving DecidableEq, Repr

/-- The numeric code of a status (60_exceptions.md R361, decision D33, log entry 32); only a host reads it. -/
def Status.code : Status → Nat
  | .running => 0
  | .stopDone => 1
  | .stopOver => 2
  | .stopError => 3

/-- Why the machine has no step. -/
inductive Fault where
  /-- Raised by `step` alone, when status is a STOP_* value: a stopped machine has no step (41_cycle.md R200), and only
  reset leaves that state (60_exceptions.md R366). Safe: the spec gives no next state (log entry 5). -/
  | stopped (status : Status)
  deriving DecidableEq, Repr

/-- Why a step has no meaning. -/
inductive Refusal where
  /-- Raised by an arm of `exec` for an instruction without a meaning. No arm raises it. Safe. -/
  | notModelled (mnemonic : String)
  /-- Raised by a FRAM load or store with trit 5 = - at row 80, which has no next row (20_memory.md R74, decision D5).
  Safe: the spec refuses the step (log entry 6). -/
  | longAccessRow80
  /-- Raised by the fetch when C[5] = - (41_cycle.md R202, decision D6). Safe: the spec refuses the step (log
  entry 6). -/
  | fetchNegativeZone
  deriving DecidableEq, Repr

/-- What one step or one meaning answers. -/
abbrev StepOutcome (σ : Type) : Type := Host.Outcome σ Fault Refusal

/-- One listed row of a memory: its row index and its 9-trit content (log entry 1: the spec's smallest unit is a row of
9 trits, there are no bytes). -/
abbrev Cell : Type := Nat × Word 9

/-- A memory: its listed rows in canonical form (`Memory.wf`). An unlisted row reads as `000000000`, the reset content
of every row (10_state.md R44, R45). -/
abbrev Memory : Type := List Cell

/-- The machine state, the tuple of 10_state.md R30 and one field of the model's own (`freeCount`). -/
structure State where
  /-- instruction/working word (R33) -/
  K : Word 9
  /-- index register (R34) -/
  F : Word 5
  /-- program counter (R35) -/
  C : Word 5
  /-- condition flag (R36) -/
  W : Trit
  /-- accumulator (R37) -/
  S : Word 18
  /-- multiplier/quotient register (R38) -/
  R : Word 18
  /-- drum zone selector (R39) -/
  MB : Word 4
  /-- scratch transfer register, of declared length 9 or 18 (R40) -/
  MR : RawWord
  /-- overflow scratch (R41) -/
  ph1 : Trit
  /-- overflow scratch (R41) -/
  ph2 : Trit
  /-- run status (R42) -/
  status : Status
  /-- FRAM, 2 pages of 81 rows (R44); page p, row r has the index 81·p + r -/
  fram : Memory
  /-- DRUM, 36 zones of 54 rows (R45); zone z, row i has the index 54·z + i -/
  drum : Memory
  /-- the MODEL's own: how many free choices have been made, the argument of Config's free values (log entry 4) -/
  freeCount : Nat
  deriving DecidableEq, Repr

/-- The state after reset (70_reset_and_hazards.md R390 to R392): every register zero at its declared length, both
memories all zero, status RUNNING. -/
def State.reset : State where
  K := Word.zero 9
  F := Word.zero 5
  C := Word.zero 5
  W := .zero
  S := Word.zero 18
  R := Word.zero 18
  MB := Word.zero 4
  MR := .short (Word.zero 9)
  ph1 := .zero
  ph2 := .zero
  status := .running
  fram := []
  drum := []
  freeCount := 0

end Sys2Proof.Machine
end

