-- ==== Sys2Proof/Machine/Ops.lean ====
section
/-! DEFINITION. The named operations over memory and registers: the sparse memory, register writes, address decoding,
FRAM and DRUM access, program-counter stepping, the three outcomes of an arm, the fetch, and the block-transfer engine.
The spec has no exceptions; what stands in their place is the stop, `stopWith` (60_exceptions.md R360 to R362), and
nothing returns from one (R366). -/

namespace Sys2Proof.Machine

/-! ### The sparse memory -/

/-- The content of row `k`: its listed word, or `000000000`. -/
def Memory.read : Memory → Nat → Word 9
  | [], _ => Word.zero 9
  | (k', w) :: rest, k => if k = k' then w else Memory.read rest k

/-- Row `k` set to `w`. Writing the word an unlisted row reads as removes the entry. -/
def Memory.write : Memory → Nat → Word 9 → Memory
  | [], k, w => if w = Word.zero 9 then [] else [(k, w)]
  | (k', w') :: rest, k, w =>
    if k < k' then (if w = Word.zero 9 then (k', w') :: rest else (k, w) :: (k', w') :: rest)
    else if k = k' then (if w = Word.zero 9 then rest else (k, w) :: rest)
    else (k', w') :: Memory.write rest k w

/-- Canonical from row `lo` on: indices strictly rising from at least `lo` and below `size`, no zero word listed. -/
def Memory.wfFrom (size : Nat) : Nat → Memory → Bool
  | _, [] => true
  | lo, (k, w) :: rest =>
    decide (lo ≤ k) && decide (k < size) && decide (w ≠ Word.zero 9) && Memory.wfFrom size (k + 1) rest

/-- The canonical form of a memory of `size` rows. -/
def Memory.wf (size : Nat) (m : Memory) : Bool := Memory.wfFrom size 0 m

/-! ### Register and memory writes -/

/-- `K <- v`. -/
def State.setK (s : State) (v : Word 9) : State := { s with K := v }
/-- `F <- v`. -/
def State.setF (s : State) (v : Word 5) : State := { s with F := v }
/-- `C <- v`. -/
def State.setC (s : State) (v : Word 5) : State := { s with C := v }
/-- `W <- v`. -/
def State.setW (s : State) (v : Trit) : State := { s with W := v }
/-- `S <- v`. -/
def State.setS (s : State) (v : Word 18) : State := { s with S := v }
/-- `R <- v`. -/
def State.setR (s : State) (v : Word 18) : State := { s with R := v }
/-- `MB <- v`. -/
def State.setMB (s : State) (v : Word 4) : State := { s with MB := v }
/-- The status becomes `v`. -/
def State.setStatus (s : State) (v : Status) : State := { s with status := v }
/-- FRAM becomes `v`. -/
def State.setFram (s : State) (v : Memory) : State := { s with fram := v }
/-- DRUM becomes `v`. -/
def State.setDrum (s : State) (v : Memory) : State := { s with drum := v }

/-- MR after a step: a free value of declared length 9 or 18 (10_state.md R40, log entry 2). -/
def freeMR (n : Nat) : RawWord :=
  if Config.mrIsLong n then .long (Word.ofFn 18 (Config.mrTrit n)) else .short (Word.ofFn 9 (Config.mrTrit n))

/-- MR takes a free value (R40). -/
def State.freeScratchMR (s : State) : State :=
  { s with MR := freeMR s.freeCount, freeCount := s.freeCount + 1 }

/-- ph1 and ph2 take free values (R41). -/
def State.freePhases (s : State) : State :=
  { s with ph1 := Config.ph1After s.freeCount, ph2 := Config.ph2After s.freeCount, freeCount := s.freeCount + 1 }

/-! ### Address decoding (20_memory.md R71 to R73, R85) -/

/-- `row(a)` (R71). ROW_WEIGHTS as the spec takes it, decision D1 (log entry 11). -/
def row (a : Word 5) : Nat :=
  (40 + 27 * (a.get 1).toInt + 9 * (a.get 2).toInt + 3 * (a.get 3).toInt + (a.get 4).toInt).toNat

/-- `page(a)` (R72): the zero and the negative zone both lie in page 0. -/
def page (a : Word 5) : Nat := if a.get 5 = .pos then 1 else 0

/-- A long access (R73). -/
def isLong (a : Word 5) : Bool := decide (a.get 5 = .neg)

/-- The index of FRAM[p][r] in `State.fram` (10_state.md R44). -/
def framIndex (p r : Nat) : Nat := 81 * p + r

/-- FRAM[p][r]. -/
def framRow (fram : Memory) (p r : Nat) : Word 9 := fram.read (framIndex p r)

/-- FRAM[p][r] <- w. -/
def setFramRow (fram : Memory) (p r : Nat) (w : Word 9) : Memory := fram.write (framIndex p r) w

/-- `zone(z)` (R85). -/
def zone (z : Word 4) : Nat := (min 35 (max 0 (z.val - 1))).toNat

/-- `drow(i)` (R85). -/
def drow (i : Int) : Nat := (min 53 (max 0 i)).toNat

/-- The index of DRUM[z][i] in `State.drum` (10_state.md R45). -/
def drumIndex (z i : Nat) : Nat := 54 * z + i

/-- DRUM[z][i]. -/
def drumRow (drum : Memory) (z i : Nat) : Word 9 := drum.read (drumIndex z i)

/-- `drum_load(z, i)` (R86). -/
def drumLoad (drum : Memory) (z : Word 4) (i : Int) : Word 9 := drumRow drum (zone z) (drow i)

/-- `drum_store(z, i, w)` (R86). -/
def drumStore (drum : Memory) (z : Word 4) (i : Int) (w : Word 9) : Memory :=
  drum.write (drumIndex (zone z) (drow i)) w

/-! ### FRAM access (R78, R81) -/

/-- `FramLoad(a)` (R78): the raw word, or the refusal of R74. -/
def framLoad (fram : Memory) (a : Word 5) : Except Refusal RawWord :=
  if isLong a then
    if row a = 80 then .error .longAccessRow80
    else .ok (.long (Word.long (framRow fram 0 (row a)) (framRow fram 0 (row a + 1))))
  else .ok (.short (framRow fram (page a) (row a)))

/-- `FramStore(a, v)` (R81), for a value of any declared length: `trunc_9(v)` short, the two halves of `trunc_18(v)`
long, or the refusal of R74. -/
def framStore {L : Nat} (fram : Memory) (a : Word 5) (v : Word L) : Except Refusal Memory :=
  if isLong a then
    if row a = 80 then .error .longAccessRow80
    else .ok (setFramRow (setFramRow fram 0 (row a) ((v.resize 18).slice 1 9)) 0 (row a + 1)
      ((v.resize 18).slice 10 9))
  else .ok (setFramRow fram (page a) (row a) (v.resize 9))

/-! ### Stepping and the three outcomes of an arm (41_cycle.md R206 to R213) -/

/-- `next_address(c)` (R213). -/
def nextAddress (c : Word 5) : Word 5 :=
  if (Word.ofInt 5 (c.val + 1)).get 5 = .neg then Word.ofInt 5 ((Word.ofInt 5 (c.val + 1)).val + 1)
  else Word.ofInt 5 (c.val + 1)

/-- The outcome Continue (R212): C advances. -/
def continueStep (s : State) : StepOutcome State := .next (s.setC (nextAddress s.C))

/-- The outcome Jumped (R210): C is the target and does not advance. -/
def jumpTo (target : Word 5) (s : State) : StepOutcome State := .next (s.setC target)

/-- `raise Stop(st)`, the outcome Stopped (R209, 60_exceptions.md R361): the status is written, C stays. -/
def stopWith (st : Status) (s : State) : StepOutcome State := .next (s.setStatus st)

/-- What the answer of a memory access becomes: a refusal of it is the refusal of the whole step (R208). -/
def orRefuse {α : Type} (r : Except Refusal α) (k : α → StepOutcome State) : StepOutcome State :=
  match r with
  | .ok v => k v
  | .error e => .refused e

/-- FramStore at `a` and then the rest of the arm. -/
def storeAndThen {L : Nat} (a : Word 5) (v : Word L) (s : State) (k : State → StepOutcome State) :
    StepOutcome State :=
  orRefuse (framStore s.fram a v) fun fram => k (s.setFram fram)

/-! ### The fetch (R201, R202) -/

/-- `FetchWord(C)`: the 9-trit row at C, refused when C[5] = - (R202, decision D6). -/
def fetchWord (s : State) : Except Refusal (Word 9) :=
  if s.C.get 5 = .neg then .error .fetchNegativeZone
  else .ok (framRow s.fram (page s.C) (row s.C))

/-- The state an instruction runs in: K holds the fetched word (R201), and MR is unspecified (10_state.md R40). -/
def State.fetched (s : State) (w : Word 9) : State := (s.setK w).freeScratchMR

/-! ### The block-transfer engine (20_memory.md R87 to R89) -/

/-- `cur_0 = A[1] ‖ --- ‖ 0` (R87, decision D14, log entry 24). -/
def transferStart (a : Word 5) : Word 5 :=
  Word.ofFn 5 fun i => if i = 1 then a.get 1 else if i = 5 then .zero else .neg

/-- The transfer of FRAM words to DRUM from word `i` at cursor `cur`, `n` words still to go (R88). -/
def framToDrumFrom (fram : Memory) (z : Word 4) : Nat → Nat → Word 5 → Memory → Memory
  | 0, _, _, drum => drum
  | n + 1, i, cur, drum =>
    framToDrumFrom fram z n (i + 1) (nextAddress cur) (drumStore drum z i (framRow fram (page cur) (row cur)))

/-- The transfer of DRUM words to FRAM from word `i` at cursor `cur`, `n` words still to go (R89). -/
def drumToFramFrom (drum : Memory) (z : Word 4) : Nat → Nat → Word 5 → Memory → Memory
  | 0, _, _, fram => fram
  | n + 1, i, cur, fram =>
    drumToFramFrom drum z n (i + 1) (nextAddress cur) (setFramRow fram (page cur) (row cur) (drumLoad drum z i))

/-- `fram_to_drum(A)` (R88), for A[1:5]: the DRUM after it. -/
@[irreducible] def framToDrum (a : Word 5) (fram drum : Memory) : Memory :=
  framToDrumFrom fram (a.slice 2 4) 54 0 (transferStart a) drum

/-- `drum_to_fram(A)` (R89), for A[1:5]: the FRAM after it. -/
@[irreducible] def drumToFram (a : Word 5) (fram drum : Memory) : Memory :=
  drumToFramFrom drum (a.slice 2 4) 54 0 (transferStart a) fram

end Sys2Proof.Machine
end

