-- ==== Sys2Proof/Machine/Operands.lean ====
section
/-! DEFINITION. Operand assembly: the control transform (41_cycle.md R204) and the delivery of a raw word
(20_memory.md R79, R80). -/

namespace Sys2Proof

/-- `to18(m)` (20_memory.md R79): a short word fills positions 1-9. SHORT_LOAD_PLACEMENT as the spec takes it, decision
D2 (log entry 12). -/
def RawWord.to18 : RawWord → Word 18
  | .short w => w.atHigh
  | .long w => w

/-- `trunc_5(m)`, what F takes (20_memory.md R80, decision D3, log entry 13). -/
def RawWord.trunc5 : RawWord → Word 5
  | .short w => w.resize 5
  | .long w => w.resize 5

/-- `val(m)` of the raw word itself, a shift count (20_memory.md R80, decision D3). -/
def RawWord.val : RawWord → Int
  | .short w => w.val
  | .long w => w.val

namespace Machine

/-- A[1:5] (41_cycle.md R204, 30_encoding.md R113): `a + F`, `a - F` or `a`, as the modification trit says, in 5-trit
modular arithmetic. -/
def effectiveAddress (a : Word 5) (m : Trit) (F : Word 5) : Word 5 :=
  match m with
  | .pos => Word.ofInt 5 (a.val + F.val)
  | .neg => Word.ofInt 5 (a.val - F.val)
  | .zero => a

/-- `ControlTransform(K, F)` (R204), the 9-trit effective address: the low four trits are cleared when K[9] ≠ 0, and K
is unmodified when K[9] = 0. The arms use its first five trits, `effectiveAddress`. -/
def controlTransform (K : Word 9) (F : Word 5) : Word 9 :=
  match K.get 9 with
  | .pos => (effectiveAddress (K.slice 1 5) .pos F).append (Word.zero 4)
  | .neg => (effectiveAddress (K.slice 1 5) .neg F).append (Word.zero 4)
  | .zero => K

/-- The effective address of an instruction in the state it runs in. -/
def State.ea (s : State) (a : Word 5) (m : Trit) : Word 5 := effectiveAddress a m s.F

/-- The operand read `M <- FramLoad(A[1:5])` before anything is written (R207), and then the rest of the arm. -/
def withOperand (a : Word 5) (m : Trit) (s : State) (k : RawWord → StepOutcome State) : StepOutcome State :=
  orRefuse (framLoad s.fram (s.ea a m)) k

end Machine

end Sys2Proof
end

