-- ==== Sys2Proof/Machine/Flags.lean ====
section
/-! DEFINITION. The condition flag W (10_state.md R36) and the overflow check (41_cycle.md R216, R217). -/

namespace Sys2Proof.Machine

/-- `Overflow(x)` (R216): x has no 18-trit representation, H_18 = 193710244. Decision D9 (log entry 19). -/
def overflow (x : Int) : Bool := decide (193710244 < x ∨ x < -193710244)

/-- `S <- v; W <- sgn(S)`, the write of an accumulator result (decision D7 where the source's row names no W, log
entry 17). -/
def State.setSAndW (s : State) (v : Word 18) : State := (s.setS v).setW v.sgn

/-- `F <- v; W <- sgn(F)` (45_index.md R299). -/
def State.setFAndW (s : State) (v : Word 5) : State := (s.setF v).setW v.sgn

/-- The end of an overflow-checked arm whose new S is exactly `x` (R216, R217): on overflow S takes `word_18(x)`, W and C
stay and the machine stops with STOP_OVER; else S and W are written and C advances. ph1 and ph2 are unspecified after
it (10_state.md R41). -/
def accumulate (x : Int) (s : State) : StepOutcome State :=
  if overflow x then stopWith .stopOver (s.freePhases.setS (Word.ofInt 18 x))
  else continueStep (s.freePhases.setSAndW (Word.ofInt 18 x))

end Sys2Proof.Machine
end

