-- ==== Sys2Proof/Machine/Accumulator.lean ====
section
/-! DEFINITION. Accumulator loads, add, subtract, XOR, the R load and halt (42_accumulator.md). -/

namespace Sys2Proof.Machine

/-- LDS, code +9 (R230): `S <- to18(M); W <- sgn(S)`. -/
def execLds (a : Word 5) (m : Trit) (s : State) : StepOutcome State :=
  withOperand a m s fun M => continueStep (s.setSAndW M.to18)

/-- ADD, code +10 (R233): `S <- S + M`, overflow-checked. -/
def execAdd (a : Word 5) (m : Trit) (s : State) : StepOutcome State :=
  withOperand a m s fun M => accumulate (s.S.val + M.to18.val) s

/-- SUB, code +8 (R236): `S <- S - M`, overflow-checked. -/
def execSub (a : Word 5) (m : Trit) (s : State) : StepOutcome State :=
  withOperand a m s fun M => accumulate (s.S.val - M.to18.val) s

/-- XOR, code +6 (R239): `S <- to18(M) XOR S; W <- sgn(S)`. -/
def execXor (a : Word 5) (m : Trit) (s : State) : StepOutcome State :=
  withOperand a m s fun M => continueStep (s.setSAndW (M.to18.xor s.S))

/-- LDR, code +7 (R242): `R <- to18(M)`; W unchanged. -/
def execLdr (a : Word 5) (m : Trit) (s : State) : StepOutcome State :=
  withOperand a m s fun M => continueStep (s.setR M.to18)

/-- HLT, code +5 (R245): `R <- to18(M)`, then STOP_DONE in the same step (decision D12, log entry 22). -/
def execHlt (a : Word 5) (m : Trit) (s : State) : StepOutcome State :=
  withOperand a m s fun M => stopWith .stopDone (s.setR M.to18)

end Sys2Proof.Machine
end

