-- ==== Sys2Proof/Machine/Control.lean ====
section
/-! DEFINITION. Control transfer and STC (44_control.md). No branch writes W (R279). -/

namespace Sys2Proof.Machine

/-- `if cond: C <- A[1:5] else Continue` (R210, R211). -/
def branchIf (cond : Bool) (a : Word 5) (m : Trit) (s : State) : StepOutcome State :=
  if cond then jumpTo (s.ea a m) s else continueStep s

/-- BZ, code +3 (R280): branch if W = 0. -/
def execBz (a : Word 5) (m : Trit) (s : State) : StepOutcome State :=
  branchIf (decide (s.W = .zero)) a m s

/-- BP, code +4 (R283): branch if W > 0. -/
def execBp (a : Word 5) (m : Trit) (s : State) : StepOutcome State :=
  branchIf (decide (s.W = .pos)) a m s

/-- BN, code +2 (R286): branch if W < 0. -/
def execBn (a : Word 5) (m : Trit) (s : State) : StepOutcome State :=
  branchIf (decide (s.W = .neg)) a m s

/-- JMP, code 0 (R289). -/
def execJmp (a : Word 5) (m : Trit) (s : State) : StepOutcome State :=
  jumpTo (s.ea a m) s

/-- STC, code +1 (R290): FramStore(A[1:5], C), the address of this instruction; W unchanged. -/
def execStc (a : Word 5) (m : Trit) (s : State) : StepOutcome State :=
  storeAndThen (s.ea a m) s.C s continueStep

end Sys2Proof.Machine
end

