-- ==== Sys2Proof/Machine/Index.lean ====
section
/-! DEFINITION. The index register family (45_index.md). F arithmetic is 5-trit modular, unchecked (R299). -/

namespace Sys2Proof.Machine

/-- STF, code -1 (R300): FramStore(A[1:5], F); `W <- sgn(F)`. -/
def execStf (a : Word 5) (m : Trit) (s : State) : StepOutcome State :=
  storeAndThen (s.ea a m) s.F s fun s' => continueStep (s'.setW s.F.sgn)

/-- LDF, code -3 (R303): `F <- trunc_5(M); W <- sgn(F)`. -/
def execLdf (a : Word 5) (m : Trit) (s : State) : StepOutcome State :=
  withOperand a m s fun M => continueStep (s.setFAndW M.trunc5)

/-- LFC, code -2 (R306): `F <- C + M; W <- sgn(F)`, C the address of this instruction. -/
def execLfc (a : Word 5) (m : Trit) (s : State) : StepOutcome State :=
  withOperand a m s fun M => continueStep (s.setFAndW (Word.ofInt 5 (s.C.val + M.trunc5.val)))

/-- ADF, code -4 (R309): `F <- F + M; W <- sgn(F)`. -/
def execAdf (a : Word 5) (m : Trit) (s : State) : StepOutcome State :=
  withOperand a m s fun M => continueStep (s.setFAndW (Word.ofInt 5 (s.F.val + M.trunc5.val)))

end Sys2Proof.Machine
end

