-- ==== Sys2Proof/Machine/Multiply.lean ====
section
/-! DEFINITION. The multiply family (43_multiply.md). -/

namespace Sys2Proof.Machine

/-- MUL, code +12 (R260): `R <- S[1:9] ‖ 0^9`, then `S <- MulSel(to18(M), R)` with the new R (decision D25),
overflow-checked. -/
def execMul (a : Word 5) (m : Trit) (s : State) : StepOutcome State :=
  withOperand a m s fun M =>
    accumulate (mulSel M.to18 (s.S.slice 1 9).atHigh).val
      (s.setR (s.S.slice 1 9).atHigh)

/-- MULA, code +13 (R263): `S <- S + MulSel(to18(M), R)`, overflow-checked. -/
def execMula (a : Word 5) (m : Trit) (s : State) : StepOutcome State :=
  withOperand a m s fun M => accumulate (s.S.val + (mulSel M.to18 s.R).val) s

/-- MULB, code +11 (R266): `S <- M + MulSel(S, R)`, overflow-checked. -/
def execMulb (a : Word 5) (m : Trit) (s : State) : StepOutcome State :=
  withOperand a m s fun M => accumulate (M.to18.val + (mulSel s.S s.R).val) s

end Sys2Proof.Machine
end

