-- ==== Sys2Proof/Machine/ShiftStoreNorm.lean ====
section
/-! DEFINITION. Shift, store S and normalization (46_shift_store_norm.md). -/

namespace Sys2Proof.Machine

/-- SHF, code -6 (R320): `S <- shift(S, val(M)); W <- sgn(S)`, the count the value of the whole raw word. -/
def execShf (a : Word 5) (m : Trit) (s : State) : StepOutcome State :=
  withOperand a m s fun M => continueStep (s.setSAndW (s.S.shift M.val))

/-- STS, code -5 (R323): FramStore(A[1:5], S); `W <- sgn(S)`. -/
def execSts (a : Word 5) (m : Trit) (s : State) : StepOutcome State :=
  storeAndThen (s.ea a m) s.S s fun s' => continueStep (s'.setW s.S.sgn)

/-- How many zero trits a list begins with. -/
def leadingZeros : List Trit → Nat
  | [] => 0
  | t :: ts => if t = .zero then leadingZeros ts + 1 else 0

/-- The signed shift count N of R326: 0 for zero or an S that is normalized already, +1 when S[1] ≠ 0, else -(j - 2)
with j the least position of a nonzero trit. -/
@[irreducible] def normCount (S : Word 18) : Int :=
  if S = Word.zero 18 ∨ (S.get 1 = .zero ∧ S.get 2 ≠ .zero) then 0
  else if S.get 1 ≠ .zero then 1
  else -((leadingZeros S.trits : Int) + 1 - 2)

/-- NRM, code -7 (R326): the normalized S, `shift(S, N)`, stored at A; `S <- word_18(N); W <- sgn(S)` (decision D17, log
entry 26). -/
def execNrm (a : Word 5) (m : Trit) (s : State) : StepOutcome State :=
  storeAndThen (s.ea a m) (s.S.shift (normCount s.S)) s fun s' =>
    continueStep (s'.setSAndW (Word.ofInt 18 (normCount s.S)))

end Sys2Proof.Machine
end

