-- ==== Sys2Proof/Machine/TransferIo.lean ====
section
/-! DEFINITION. Block transfer, I/O and the reserved codes (47_transfer_io.md). -/

namespace Sys2Proof.Machine

/-- F2D, code -8 (R340): `MB <- A[2:5]` (decision D15, log entry 25), then fram_to_drum(A). -/
def execF2d (a : Word 5) (m : Trit) (s : State) : StepOutcome State :=
  continueStep ((s.setMB ((s.ea a m).slice 2 4)).setDrum (framToDrum (s.ea a m) s.fram s.drum))

/-- D2F, code -10 (R342): `MB <- A[2:5]`, then drum_to_fram(A). -/
def execD2f (a : Word 5) (m : Trit) (s : State) : StepOutcome State :=
  continueStep ((s.setMB ((s.ea a m).slice 2 4)).setFram (drumToFram (s.ea a m) s.fram s.drum))

/-- IO, code -9 (R345): a no-op that advances C; the address is computed and ignored (decision D28). -/
def execIo (_ : Word 5) (_ : Trit) (s : State) : StepOutcome State := continueStep s

/-- RSV, code -11 (R347): STOP_ERROR, nothing else written. -/
def execRsv11 (_ : Word 5) (_ : Trit) (s : State) : StepOutcome State := stopWith .stopError s

/-- RSV, code -12 (R347). -/
def execRsv12 (_ : Word 5) (_ : Trit) (s : State) : StepOutcome State := stopWith .stopError s

/-- RSV, code -13 (R347). -/
def execRsv13 (_ : Word 5) (_ : Trit) (s : State) : StepOutcome State := stopWith .stopError s

end Sys2Proof.Machine
end

