-- ==== Sys2Proof/Machine/Dispatch.lean ====
section
/-! DEFINITION. Execute(op, A), the 27-way dispatch (41_cycle.md R206): one arm per code. -/

namespace Sys2Proof.Machine

def exec (i : Instr) (s : State) : Host.Outcome State Fault Refusal :=
  match i with
  | .mula a m => Sys2Proof.Machine.execMula a m s
  | .mul a m => Sys2Proof.Machine.execMul a m s
  | .mulb a m => Sys2Proof.Machine.execMulb a m s
  | .add a m => Sys2Proof.Machine.execAdd a m s
  | .lds a m => Sys2Proof.Machine.execLds a m s
  | .sub a m => Sys2Proof.Machine.execSub a m s
  | .ldr a m => Sys2Proof.Machine.execLdr a m s
  | .xor a m => Sys2Proof.Machine.execXor a m s
  | .hlt a m => Sys2Proof.Machine.execHlt a m s
  | .bp a m => Sys2Proof.Machine.execBp a m s
  | .bz a m => Sys2Proof.Machine.execBz a m s
  | .bn a m => Sys2Proof.Machine.execBn a m s
  | .stc a m => Sys2Proof.Machine.execStc a m s
  | .jmp a m => Sys2Proof.Machine.execJmp a m s
  | .stf a m => Sys2Proof.Machine.execStf a m s
  | .lfc a m => Sys2Proof.Machine.execLfc a m s
  | .ldf a m => Sys2Proof.Machine.execLdf a m s
  | .adf a m => Sys2Proof.Machine.execAdf a m s
  | .sts a m => Sys2Proof.Machine.execSts a m s
  | .shf a m => Sys2Proof.Machine.execShf a m s
  | .nrm a m => Sys2Proof.Machine.execNrm a m s
  | .f2d a m => Sys2Proof.Machine.execF2d a m s
  | .io a m => Sys2Proof.Machine.execIo a m s
  | .d2f a m => Sys2Proof.Machine.execD2f a m s
  | .rsv11 a m => Sys2Proof.Machine.execRsv11 a m s
  | .rsv12 a m => Sys2Proof.Machine.execRsv12 a m s
  | .rsv13 a m => Sys2Proof.Machine.execRsv13 a m s

end Sys2Proof.Machine
end

