-- ==== Sys2Proof/Machine/Step.lean ====
section
/-! DEFINITION. One step of the machine (41_cycle.md R200), and placing an instruction where the next step fetches. -/

namespace Sys2Proof.Machine

/-- One step (R200): none while status is a STOP_* value; else fetch into K, decode, and execute. The control transform
is part of each arm's operand assembly (R204), and C advances in the arm's outcome (R206). -/
def step (s : State) : Host.Outcome State Fault Refusal :=
  if s.status = .running then
    match fetchWord s with
    | .error r => .refused r
    | .ok w => exec (decode w) (s.fetched w)
  else .fault (.stopped s.status)

/-- `s` with the instruction whose bits are `w` stored in the FRAM row that C addresses, the row the next fetch reads
(R201). Bits that are no 9-trit word store nothing. -/
def State.withFetchWord (s : State) (_ w : Nat) : State :=
  match wordOfTableBits w with
  | .ok word => s.setFram (setFramRow s.fram (page s.C) (row s.C) word)
  | .error _ => s

end Sys2Proof.Machine
end

