-- ==== Sys2Proof/Machine/HostOps.lean ====
section
/-! DEFINITION. What the host may do between steps (70_reset_and_hazards.md R390, R395 to R397): reset, write a word,
write a register, run. It reads every field of the state. There is no operation that writes status or DRUM (R396). -/

namespace Sys2Proof.Machine

/-- Reset, in any state, whatever it was (R390). -/
def hostReset (_ : State) : State := State.reset

/-- HostStore(A, W), exactly FramStore(A, W) (R395). -/
def hostStore (a : Word 5) (w : Word 9) (s : State) : Except Refusal State :=
  match framStore s.fram a w with
  | .ok fram => .ok (s.setFram fram)
  | .error r => .error r

/-- A register write the host may make, at the register's declared length (R396). -/
inductive HostWrite where
  | K (v : Word 9)
  | F (v : Word 5)
  | C (v : Word 5)
  | W (v : Trit)
  | S (v : Word 18)
  | R (v : Word 18)
  deriving DecidableEq, Repr

/-- A host register write (R396). -/
def hostSet (w : HostWrite) (s : State) : State :=
  match w with
  | .K v => s.setK v
  | .F v => s.setF v
  | .C v => s.setC v
  | .W v => s.setW v
  | .S v => s.setS v
  | .R v => s.setR v

/-- How a run ended (41_cycle.md R219). -/
inductive RunEnd where
  /-- status is not RUNNING -/
  | stopped (s : State)
  /-- the step from `s` is refused -/
  | refused (r : Refusal) (s : State)
  /-- the step cap was reached while RUNNING; the run has not ended -/
  | capped (s : State)
  deriving DecidableEq, Repr

/-- Run(n) (R397): steps until status is not RUNNING, a step is refused, or `n` steps have been taken. The cap is the
open parameter FUEL (decision D22). -/
def hostRun : Nat → State → RunEnd
  | 0, s => if s.status = .running then .capped s else .stopped s
  | n + 1, s =>
    match step s with
    | .next t => hostRun n t
    | .fault _ => .stopped s
    | .refused r => .refused r s

end Sys2Proof.Machine
end

