-- ==== Sys2Proof/Machine/Loader.lean ====
section
/-! DEFINITION. The host's program loader: the text format (30_encoding.md R117) and its addressing (R118). It is an
external collaborator (00_scope.md R5); the core sees its HostStore calls only. -/

namespace Sys2Proof.Machine

/-- A character of the alphabet W, X, Y, Z, 0, 1, 2, 3, 4 (R117). -/
def isNonarySymbol (c : Char) : Bool := "WXYZ01234".toList.contains c

/-- The two trits of each character, in order. -/
def expandLine : List Char → List Trit
  | [] => []
  | c :: cs => (nonaryPair c).1 :: (nonaryPair c).2 :: expandLine cs

theorem expandLine_length (cs : List Char) : (expandLine cs).length = 2 * cs.length := by
  induction cs with
  | nil => rfl
  | cons c cs ih => simp [expandLine, ih]; omega

/-- The 9-trit word of a program line: exactly five characters of the alphabet, their ten trits less the first
(R117). A line of another length is rejected (R117), and so is one with another character (60_exceptions.md R373, log
entry 42). -/
def wordOfLine (line : List Char) : Option (Word 9) :=
  if h : line.length = 5 then
    if line.all isNonarySymbol then
      some ⟨(expandLine line).drop 1, by rw [List.length_drop, expandLine_length, h]⟩
    else none
  else none

/-- The symbol of two trits. -/
def symbolOfPair (hi lo : Trit) : Char := nonarySymbol (3 * hi.toInt + lo.toInt)

/-- A line of a word: the discarded first trit is taken as 0 (95_test_vectors.md section 1.3). -/
def lineOfWord (w : Word 9) : List Char :=
  [symbolOfPair .zero (w.get 1), symbolOfPair (w.get 2) (w.get 3), symbolOfPair (w.get 4) (w.get 5),
    symbolOfPair (w.get 6) (w.get 7), symbolOfPair (w.get 8) (w.get 9)]

/-- Load words at successive addresses from `base`, stepping with next_address (R118). `base` is the open parameter
LOAD_BASE (decision D21). -/
def loadWords : Word 5 → List (Word 9) → State → Except Refusal State
  | _, [], s => .ok s
  | base, w :: ws, s =>
    match hostStore base w s with
    | .ok s' => loadWords (nextAddress base) ws s'
    | .error r => .error r

end Sys2Proof.Machine
end

