-- ==== Sys2Proof/Safety.lean ====
section
/-! DEFINITION. What counts as a safe state, a safe step and a completed run, in the terms claims use. -/

namespace Sys2Proof.Machine

/-- Both memories are in canonical form and list only rows that exist (10_state.md R44, R45): FRAM 162 rows, DRUM
1944. -/
abbrev State.canonical (s : State) : Prop := s.fram.wf 162 = true ∧ s.drum.wf 1944 = true

/-- The next state of an outcome, if there is one. -/
def nextState? (o : StepOutcome State) : Option State :=
  match o with
  | .next s => some s
  | .fault _ => none
  | .refused _ => none

/-- A FRAM address that no long access at row 80 makes refusable (20_memory.md R74). -/
abbrev accessible (a : Word 5) : Prop := a.get 5 = .neg → row a ≠ 80

/-- The run from `s` completes within `fuel` steps: it stops with STOP_DONE, the only normal end (41_cycle.md R219,
decision D29). -/
def completesWithin (fuel : Nat) (s : State) : Prop :=
  ∃ t, hostRun fuel s = .stopped t ∧ t.status = .stopDone

/-- Everything a program can observe agrees: F, C, W, S, R, status and both memories (10_state.md R39 to R41 name MB,
MR, ph1 and ph2 as read by no rule, and R33 lets only the fetch of the same step matter for K). -/
abbrev sameObservable (s t : State) : Prop :=
  s.F = t.F ∧ s.C = t.C ∧ s.W = t.W ∧ s.S = t.S ∧ s.R = t.R ∧ s.status = t.status ∧ s.fram = t.fram ∧ s.drum = t.drum

/-- Two steps answer alike as far as a program can observe: next states that agree in every observable and in K, or the
same fault, or the same refusal. -/
inductive sameAnswer : StepOutcome State → StepOutcome State → Prop where
  | next {t t' : State} (h : sameObservable t t') (hK : t.K = t'.K) : sameAnswer (.next t) (.next t')
  | fault (f : Fault) : sameAnswer (.fault f) (.fault f)
  | refused (r : Refusal) : sameAnswer (.refused r) (.refused r)

/-- The FRAM `after` holds what a store of the 18-trit value `v` at `a` leaves (20_memory.md R81): a short store puts the
low nine trits into the row of `a`, a long one the two halves into two adjacent rows of page 0, and every other row
reads as it did `before`. -/
abbrev rowsAfterStore (before after : Memory) (a : Word 5) (v : Word 18) : Prop :=
  (a.get 5 ≠ .neg →
    framRow after (page a) (row a) = v.slice 10 9 ∧
    ∀ p r, p < 2 → r < 81 → ¬(p = page a ∧ r = row a) → framRow after p r = framRow before p r) ∧
  (a.get 5 = .neg →
    framRow after 0 (row a) = v.slice 1 9 ∧ framRow after 0 (row a + 1) = v.slice 10 9 ∧
    ∀ p r, p < 2 → r < 81 → ¬(p = 0 ∧ (r = row a ∨ r = row a + 1)) → framRow after p r = framRow before p r)

/-- The lowest row of the FRAM third a block transfer with effective address `a` works on: 0, 27 or 54 for A[1] = -, 0
or + (20_memory.md R87). -/
def thirdBase (a : Word 5) : Nat := (27 * ((a.get 1).toInt + 1)).toNat

end Sys2Proof.Machine
end

