-- ==== Sys2Proof/Certificates/Slice0/Obligations.lean ====
section
/-! DEFINITION. The statements for the provers. "D<n>" in a docstring is an entry of 92_eei_decisions.md, a choice the
spec marks as its own; "log <n>" is notes/assumptions/<n>.md. -/

open Sys2Proof Sys2Proof.Machine

/-! ### Encoding -/

/-- Decoding the encoded word of an instruction gives the instruction back, for every instruction (R111, R114). -/
def Obligations.DecodeInvertsEncode : Prop := ∀ i : Instr, decode (encode i) = i

/-- Encoding what a word decodes to gives the word back: no trit of any word is dropped (R111, R114, R116). -/
def Obligations.EncodeInvertsDecode : Prop := ∀ K : Word 9, encode (decode K) = K

/-- R112: the opcode value is the weighted sum of trits 6 to 8, lies in -13..13, and tells the 27 patterns apart. -/
def Obligations.OpcodeIsTheWeightedSum : Prop :=
  (∀ K : Word 9, (decode K).code = 9 * (K.get 6).toInt + 3 * (K.get 7).toInt + (K.get 8).toInt) ∧
  (∀ K : Word 9, -13 ≤ (decode K).code ∧ (decode K).code ≤ 13) ∧
  (∀ K K' : Word 9, (decode K).code = (decode K').code →
    K.get 6 = K'.get 6 ∧ K.get 7 = K'.get 7 ∧ K.get 8 = K'.get 8)

/-- Words written out from the spec's examples decode to what they stand for: `000+0+0++` is ADD 000+0,+F (R119),
`00000+000` is LDS 00000 (R230), `00000--00` is the reserved code -12 (R347), `000+0-0+0` is F2D 000+0. -/
def Obligations.WrittenOutWordsDecode : Prop :=
  decode ⟨[.zero, .zero, .zero, .pos, .zero, .pos, .zero, .pos, .pos], rfl⟩ =
    .add ⟨[.zero, .zero, .zero, .pos, .zero], rfl⟩ .pos ∧
  decode ⟨[.zero, .zero, .zero, .zero, .zero, .pos, .zero, .zero, .zero], rfl⟩ =
    .lds ⟨[.zero, .zero, .zero, .zero, .zero], rfl⟩ .zero ∧
  decode ⟨[.zero, .zero, .zero, .zero, .zero, .neg, .neg, .zero, .zero], rfl⟩ =
    .rsv12 ⟨[.zero, .zero, .zero, .zero, .zero], rfl⟩ .zero ∧
  decode ⟨[.zero, .zero, .zero, .pos, .zero, .neg, .zero, .pos, .zero], rfl⟩ =
    .f2d ⟨[.zero, .zero, .zero, .pos, .zero], rfl⟩ .zero

/-- In the model's bit form of a word (log 7, PRESUMED: not the spec's) every instruction is read back from its bits,
and exactly the ill-formed numbers are rejected: a bit beyond nine trits, or the flag pair (nonzero = false, sign =
true) that R31 forbids. -/
def Obligations.TableBitsDecodeOrAreRejected : Prop :=
  (∀ (n : Nat) (i : Instr), decodeTableWord n (bitsOfWord (encode i)) = some i) ∧
  (∀ n bits : Nat, decodeTableWord n bits = none ↔ 4 ^ 9 ≤ bits ∨ ∃ k < 9, bits / 4 ^ k % 4 = 2)

/-- R117: a line of five characters of the alphabet gives the ten trits of its characters less the first, every other
line is rejected, and every word has a line. R117 itself rejects a line of another length; that a line of five with a
character outside the alphabet is rejected as well (R373's "malformed program line") is the model's reading, log 42, and
the line chosen for a word is log 41. -/
def Obligations.ProgramLinesExpandToWords : Prop :=
  (∀ c₁ c₂ c₃ c₄ c₅ : Char, [c₁, c₂, c₃, c₄, c₅].all isNonarySymbol = true →
    (wordOfLine [c₁, c₂, c₃, c₄, c₅]).map Word.trits =
      some [(nonaryPair c₁).2, (nonaryPair c₂).1, (nonaryPair c₂).2, (nonaryPair c₃).1, (nonaryPair c₃).2,
        (nonaryPair c₄).1, (nonaryPair c₄).2, (nonaryPair c₅).1, (nonaryPair c₅).2]) ∧
  (∀ line : List Char, line.length ≠ 5 ∨ line.all isNonarySymbol = false → wordOfLine line = none) ∧
  (∀ c : Char, isNonarySymbol c = true ↔ c ∈ ['W', 'X', 'Y', 'Z', '0', '1', '2', '3', '4']) ∧
  (['W', 'X', 'Y', 'Z', '0', '1', '2', '3', '4'].map nonaryPair =
    [(.neg, .neg), (.neg, .zero), (.neg, .pos), (.zero, .neg), (.zero, .zero), (.zero, .pos), (.pos, .neg),
      (.pos, .zero), (.pos, .pos)]) ∧
  (∀ w : Word 9, wordOfLine (lineOfWord w) = some w)

/-! ### Reset and the status -/

/-- R390, R392: reset, from any state, gives every register zero at its declared length, every row of both memories
zero, MR of length 9, and status RUNNING. The status is D13, the spec's own choice. -/
def Obligations.ResetZeroesEverything : Prop :=
  ∀ s : State, ∃ t, hostReset s = t ∧ t.K = Word.zero 9 ∧ t.F = Word.zero 5 ∧ t.C = Word.zero 5 ∧ t.W = .zero ∧
    t.S = Word.zero 18 ∧ t.R = Word.zero 18 ∧ t.MB = Word.zero 4 ∧ t.MR = .short (Word.zero 9) ∧ t.ph1 = .zero ∧
    t.ph2 = .zero ∧ t.status = .running ∧ (∀ p r, framRow t.fram p r = Word.zero 9) ∧
    (∀ z i, drumRow t.drum z i = Word.zero 9)

/-- The reset state satisfies the invariant of `StepKeepsMemoriesCanonical`. -/
def Obligations.ResetStateIsCanonical : Prop := State.reset.canonical

/-- A stopped machine has no step, a host store or register write does not restart it, a run from it is over at once,
and reset leaves it RUNNING (R200, R366; D13, log 15; which writes the host has is D34, log 37). That the missing step
is the fault `stopped` is the model's form (log 5). -/
def Obligations.OnlyResetLeavesAStop : Prop :=
  ∀ s : State, s.status ≠ .running →
    step s = .fault (.stopped s.status) ∧
    (∀ w : HostWrite, (hostSet w s).status = s.status) ∧
    (∀ a w t, hostStore a w s = .ok t → t.status = s.status) ∧
    (∀ n, hostRun n s = .stopped s) ∧
    (hostReset s).status = .running

/-- R394: a running machine with C = 00000 and a zero word there steps without a change a program could observe, so that
every run from it ends at the host's cap. The state after reset is such a state; that its status is RUNNING is D13, the
spec's own choice (log 15). -/
def Obligations.ResetStateLoopsForever : Prop :=
  (∀ s : State, s.status = .running → s.C = Word.zero 5 → framRow s.fram 0 40 = Word.zero 9 →
    (∃ t, step s = .next t ∧ sameObservable t s) ∧ ∀ n : Nat, ∃ t, hostRun n s = .capped t ∧ sameObservable t s) ∧
  (∀ n : Nat, ∃ t, hostRun n State.reset = .capped t ∧ sameObservable t State.reset)

/-- R219, R397: how a run ended is final. A longer run from the same state ends as a stopped or refused one did, with a
status other than RUNNING or at a refused step, and a run that only reached the host's cap goes on from there. That a run
ends in these three ways and that one at the cap has not ended is D29, that the cap is an open argument D22, the spec's
own choices (log 34). -/
def Obligations.RunEndsAreFinal : Prop :=
  ∀ (m n : Nat) (s : State),
    (∀ t, hostRun m s = .stopped t → hostRun (m + n) s = .stopped t ∧ t.status ≠ .running) ∧
    (∀ r t, hostRun m s = .refused r t → hostRun (m + n) s = .refused r t ∧ step t = .refused r) ∧
    (∀ t, hostRun m s = .capped t → hostRun (m + n) s = hostRun n t ∧ t.status = .running)

/-! ### The step -/

/-- R201: where C[5] is 0 or +, the step fetches the row FRAM[page(C)][row(C)] into K and runs the instruction that row
decodes to, from a state that differs from the present one in K and the unspecified scratch MR only (R40, log 2),
and the model's counter of free values (log 4). -/
def Obligations.StepRunsTheDecodedInstruction : Prop :=
  ∀ (s : State) (i : Instr), s.status = .running → s.C.get 5 ≠ .neg →
    decode (framRow s.fram (page s.C) (row s.C)) = i →
    ∃ s' : State, step s = exec i s' ∧
      s' = { s with K := framRow s.fram (page s.C) (row s.C), MR := s'.MR, freeCount := s'.freeCount }

/-- A fetch from a C with trit 5 = - is refused (R202, D6: the spec's own choice, log 6). -/
def Obligations.NegativeZoneFetchIsRefused : Prop :=
  ∀ s : State, s.status = .running → s.C.get 5 = .neg → step s = .refused .fetchNegativeZone

/-- Every step keeps both memories in canonical form, listing only rows that exist (R44, R45; log 1). -/
def Obligations.StepKeepsMemoriesCanonical : Prop :=
  ∀ s t : State, s.canonical → step s = .next t → t.canonical

/-- R39 to R41, R33: a program cannot observe MB, MR, ph1, ph2 or an old K. Two states that agree on F, C, W, S, R,
status and both memories step to states that agree on them again, and on K, or are stopped or refused alike. -/
def Obligations.HiddenRegistersAreUnobservable : Prop :=
  ∀ s s' : State, sameObservable s s' → sameAnswer (step s) (step s')

/-- R215, R361, R364: STOP_DONE comes from HLT alone and always, STOP_ERROR from the reserved codes alone and always,
and STOP_OVER only from the five overflow-checked codes. That HLT stops in its own step is D12, the overflow test D9, the
spec's own choices (log 22, log 19). -/
def Obligations.StopsComeOnlyFromTheirInstructions : Prop :=
  ∀ (i : Instr) (s t : State), s.status = .running → exec i s = .next t →
    (t.status = .stopDone ↔ ∃ a m, i = .hlt a m) ∧
    (t.status = .stopError ↔ ∃ a m, i = .rsv11 a m ∨ i = .rsv12 a m ∨ i = .rsv13 a m) ∧
    (t.status = .stopOver →
      ∃ a m, i = .add a m ∨ i = .sub a m ∨ i = .mul a m ∨ i = .mula a m ∨ i = .mulb a m)

/-- R209, R362: a step that stops the machine leaves C at the stopping instruction's address; beside that it leaves W, F,
MB and both memories, and of S and R it writes at most R with STOP_DONE (R245), S with STOP_OVER (R217) and neither with
STOP_ERROR (R347). That HLT and an overflow leave W is D7, that HLT stops in its own step D12, the spec's own choices
(log 17, log 22). -/
def Obligations.StopLeavesCAtTheInstruction : Prop :=
  ∀ s t : State, step s = .next t → t.status ≠ .running →
    t.C = s.C ∧ t.W = s.W ∧ t.F = s.F ∧ t.MB = s.MB ∧ t.fram = s.fram ∧ t.drum = s.drum ∧
    (t.status = .stopDone → t.S = s.S) ∧ (t.status = .stopError → t.S = s.S ∧ t.R = s.R) ∧
    (t.status = .stopOver → t.R = s.R)

/-- R212: an instruction that does not jump and does not stop the machine ends with C advanced by next_address from its
own address. -/
def Obligations.ContinueAdvancesC : Prop :=
  ∀ (i : Instr) (s t : State), exec i s = .next t → t.status = .running →
    (¬∃ a m, i = .jmp a m ∨ (i = .bz a m ∧ s.W = .zero) ∨ (i = .bp a m ∧ s.W = .pos) ∨ (i = .bn a m ∧ s.W = .neg)) →
    t.C = nextAddress s.C

/-- R33, R34, R36 to R39 and the W table of 10_state.md: which instructions may change each register. The codes that
write W beyond the source's own rows, and MB's writers, are D7 and D15, the spec's own choices (log 17, log 25). K and MR
are no instruction's: the step's fetch writes K (R33). That MR, unspecified after any step (R40), takes its free value in
the fetch and not in `exec` is the model's choice (log 2). -/
def Obligations.RegisterWritesComeOnlyFromTheirInstructions : Prop :=
  ∀ (i : Instr) (s t : State), exec i s = .next t →
    t.K = s.K ∧ t.MR = s.MR ∧
    (t.F ≠ s.F → ∃ a m, i = .ldf a m ∨ i = .lfc a m ∨ i = .adf a m) ∧
    (t.R ≠ s.R → ∃ a m, i = .ldr a m ∨ i = .hlt a m ∨ i = .mul a m) ∧
    (t.MB ≠ s.MB → ∃ a m, i = .f2d a m ∨ i = .d2f a m) ∧
    (t.S ≠ s.S → ∃ a m, i = .lds a m ∨ i = .add a m ∨ i = .sub a m ∨ i = .xor a m ∨ i = .mul a m ∨ i = .mula a m ∨
      i = .mulb a m ∨ i = .shf a m ∨ i = .nrm a m) ∧
    (t.W ≠ s.W → ∃ a m, i = .lds a m ∨ i = .add a m ∨ i = .sub a m ∨ i = .xor a m ∨ i = .mul a m ∨ i = .mula a m ∨
      i = .mulb a m ∨ i = .shf a m ∨ i = .nrm a m ∨ i = .stf a m ∨ i = .ldf a m ∨ i = .lfc a m ∨ i = .adf a m ∨
      i = .sts a m)

/-- Which instructions may change a memory: FRAM the three stores, NRM and D2F (R81, R89), DRUM F2D alone (R45, R86). -/
def Obligations.MemoryWritesComeOnlyFromTheirInstructions : Prop :=
  ∀ (i : Instr) (s t : State), exec i s = .next t →
    (t.fram ≠ s.fram → ∃ a m, i = .stc a m ∨ i = .stf a m ∨ i = .sts a m ∨ i = .nrm a m ∨ i = .d2f a m) ∧
    (t.drum ≠ s.drum → ∃ a m, i = .f2d a m)

/-- R93: the word a short STS stores is what a later fetch from that address reads (D18: no fence is needed; the low
half is D4). -/
def Obligations.StoredWordIsFetched : Prop :=
  ∀ (a : Word 5) (m : Trit) (s : State), s.canonical → (s.ea a m).get 5 ≠ .neg →
    ∃ t, exec (.sts a m) s = .next t ∧ fetchWord (t.setC (s.ea a m)) = .ok (s.S.slice 10 9)

/-! ### Addresses -/

/-- R204, R113, R205: the control transform adds F, subtracts F or leaves the address field, modulo 3^5 into -121..121,
clears the low four trits when it modifies, and leaves K when K[9] = 0; the decoded instruction's effective address is
its first five trits. -/
def Obligations.ControlTransformModifiesTheAddress : Prop :=
  (∀ (a : Word 5) (m : Trit) (F : Word 5),
    (effectiveAddress a m F).val = Int.bmod (a.val + m.toInt * F.val) 243) ∧
  (∀ (K : Word 9) (F : Word 5),
    (controlTransform K F).slice 1 5 = effectiveAddress (decode K).address (decode K).modifier F ∧
    (K.get 9 ≠ .zero → (controlTransform K F).slice 6 4 = Word.zero 4) ∧
    (K.get 9 = .zero → controlTransform K F = K))

/-- R71 with the weights of D1 (the spec's own choice, log 11), R76: the row is 40 + 27a1 + 9a2 + 3a3 + a4, in 0..80, and
every row of both pages has exactly one short address. -/
def Obligations.RowDecodeReachesEveryRowOnce : Prop :=
  (∀ a : Word 5, (row a : Int) = 40 + 27 * (a.get 1).toInt + 9 * (a.get 2).toInt + 3 * (a.get 3).toInt +
    (a.get 4).toInt ∧ row a ≤ 80) ∧
  (∀ p r, p < 2 → r < 81 → ∃! a : Word 5, a.get 5 ≠ .neg ∧ page a = p ∧ row a = r)

/-- R72, R73: trit 5 = + reads one row of page 1, trit 5 = 0 one row of page 0, and trit 5 = - two adjacent rows of page
0, the addressed row the high half. -/
def Obligations.FramLoadReadsOneOrTwoRows : Prop :=
  ∀ (fram : Memory) (a : Word 5),
    (a.get 5 = .pos → framLoad fram a = .ok (.short (framRow fram 1 (row a)))) ∧
    (a.get 5 = .zero → framLoad fram a = .ok (.short (framRow fram 0 (row a)))) ∧
    (a.get 5 = .neg → row a ≠ 80 →
      ∃ w : Word 18, framLoad fram a = .ok (.long w) ∧ w.slice 1 9 = framRow fram 0 (row a) ∧
        w.slice 10 9 = framRow fram 0 (row a + 1))

/-- R79, R80 with the placements of D2 and D3 (the spec's own choices, log 12 and 13): a short word fills positions 1-9
of an 18-trit register, F takes the low five trits of the raw word. -/
def Obligations.OperandDelivery : Prop :=
  (∀ (w : Word 9) (i : Int), 1 ≤ i → i ≤ 18 →
    (RawWord.short w).to18.get i = if i ≤ 9 then w.get i else .zero) ∧
  (∀ w : Word 18, (RawWord.long w).to18 = w) ∧
  (∀ w : Word 9, (RawWord.short w).trunc5 = w.slice 5 5) ∧
  (∀ w : Word 18, (RawWord.long w).trunc5 = w.slice 14 5) ∧
  (∀ w : Word 9, (RawWord.short w).to18.val = 19683 * w.val)

/-- R74, D5 (the spec's own choice, log 6): `++++-` is the one address that is not accessible, and every instruction
that loads or stores there is refused. -/
def Obligations.LongAccessAtRow80IsRefused : Prop :=
  (∀ a : Word 5, accessible a ↔ a ≠ ⟨[.pos, .pos, .pos, .pos, .neg], rfl⟩) ∧
  (∀ (a : Word 5) (m : Trit) (s : State), s.ea a m = ⟨[.pos, .pos, .pos, .pos, .neg], rfl⟩ →
    ∀ i : Instr, i ∈ [Instr.lds a m, .add a m, .sub a m, .xor a m, .ldr a m, .hlt a m, .mul a m, .mula a m, .mulb a m,
      .stc a m, .stf a m, .ldf a m, .lfc a m, .adf a m, .shf a m, .sts a m, .nrm a m] →
      exec i s = .refused .longAccessRow80)

/-- R81 (with D4, the spec's own choice, log 14): what a store of any register value leaves in FRAM. -/
def Obligations.FramStoreWritesItsRowsOnly : Prop :=
  ∀ {L : Nat} (fram : Memory) (a : Word 5) (v : Word L), fram.wf 162 = true → accessible a →
    ∃ fram', framStore fram a v = .ok fram' ∧ fram'.wf 162 = true ∧ rowsAfterStore fram fram' a (v.resize 18)

/-- R82: a 5-trit value comes back from memory at both widths; an 18-trit value comes back from a long address, and from
a short one its low half comes back as the high half (D2, D4: the spec's own choices). -/
def Obligations.StoreThenLoad : Prop :=
  ∀ (fram : Memory) (a : Word 5), fram.wf 162 = true → accessible a →
    (∀ v : Word 5, ∃ fram' M, framStore fram a v = .ok fram' ∧ framLoad fram' a = .ok M ∧ M.trunc5 = v) ∧
    (∀ v : Word 18, ∃ fram' M, framStore fram a v = .ok fram' ∧ framLoad fram' a = .ok M ∧
      (a.get 5 = .neg → M.to18 = v) ∧ (a.get 5 ≠ .neg → M.to18 = (v.slice 10 9).atHigh))

/-- R213, R214 (rows by D1): stepping never gives trit 5 = -; it visits page 0 and then page 1 of a row and goes on to
the next row, wrapping from row 80 to row 0; 162 steps visit every row of both pages exactly once and return. -/
def Obligations.SteppingVisitsEveryRowOnce : Prop :=
  (∀ c : Word 5, (nextAddress c).get 5 ≠ .neg) ∧
  (∀ c : Word 5, c.get 5 ≠ .neg →
    (page c = 0 → page (nextAddress c) = 1 ∧ row (nextAddress c) = row c) ∧
    (page c = 1 → page (nextAddress c) = 0 ∧ row (nextAddress c) = (row c + 1) % 81) ∧
    nextAddress^[162] c = c ∧
    ∀ p r, p < 2 → r < 81 → ∃! k, k < 162 ∧ page (nextAddress^[k] c) = p ∧ row (nextAddress^[k] c) = r)

/-! ### The ternary value engine -/

/-- R13, R159: the value of a word is its positional sum, from either end, and lies in -H_L..H_L; `word_L(n)`
has the value n where that fits, and otherwise n less the one multiple of 3^L that brings it into range; the word of a word's value is the word. -/
def Obligations.IntegerConversions : Prop :=
  (∀ (L : Nat) (w : Word L),
    w.val = ∑ i ∈ Finset.range L, (w.get ((i : Int) + 1)).toInt * 3 ^ (L - 1 - i) ∧
    w.val = ∑ k ∈ Finset.range L, (w.getG k).toInt * 3 ^ k ∧ |w.val| ≤ halfRange L ∧
    Word.ofInt L w.val = w) ∧
  (∀ (L : Nat) (n : Int), |n| ≤ halfRange L → (Word.ofInt L n).val = n) ∧
  (∀ (L : Nat) (n : Int), ∃! k : Int, (Word.ofInt L n).val = n - 3 ^ L * k ∧ |n - 3 ^ L * k| ≤ halfRange L)

/-- R151: the ripple-carry addition computes the low trits of the exact sum, its last carry dropped. -/
def Obligations.RippleAddIsTheModularSum : Prop :=
  ∀ {m n : Nat} (a : Word m) (b : Word n), Word.rippleAdd (max m n) a b = Word.ofInt (max m n) (a.val + b.val)

/-- R152, R153: negation negates every trit and the value exactly, and rippling the sum with the negation
(which has the same declared length) gives the difference. -/
def Obligations.RippleOfTheNegationSubtracts : Prop :=
  (∀ {L : Nat} (w : Word L), (∀ i : Int, (w.neg.get i).toInt = -(w.get i).toInt) ∧ w.neg.val = -w.val) ∧
  (∀ {m n : Nat} (a : Word m) (b : Word n),
    Word.rippleAdd (max m n) a b.neg = Word.ofInt (max m n) (a.val - b.val))

/-- R154: shift-and-add over the trits of the multiplier, at twice the longer length, is the exact product. -/
def Obligations.ShiftAndAddMultipliesExactly : Prop :=
  ∀ {m n : Nat} (a : Word m) (b : Word n),
    Word.shiftAddMul (a.resize (2 * max m n)) b (max m n) = Word.ofInt (2 * max m n) (a.val * b.val) ∧
    (Word.ofInt (2 * max m n) (a.val * b.val)).val = a.val * b.val

/-- R156: copy_resize is `word_n(val(w))`, generic positions 0..n-1 of the source (0 above its length); it
keeps the value when it widens, and widening and coming back restores the word. -/
def Obligations.ResizeIsTheWordOfTheValue : Prop :=
  ∀ {L : Nat} (n : Nat) (w : Word L),
    w.resize n = Word.ofInt n w.val ∧ (∀ k : Int, 0 ≤ k → k < n → (w.resize n).getG k = w.getG k) ∧
    (L ≤ n → (w.resize n).val = w.val ∧ (w.resize n).resize L = w)

/-- R160: the sign of a word is its most significant nonzero trit, 0 for a zero word, and the sign of its value. -/
def Obligations.SignIsTheSignOfTheValue : Prop :=
  ∀ {L : Nat} (w : Word L),
    w.sgn = Trit.ofSign w.val ∧ (w.sgn = .zero ↔ w = Word.zero L) ∧
    (∀ i : Int, w.get i ≠ .zero → (∀ j, j < i → w.get j = .zero) → w.sgn = w.get i)

/-- R158 (zero fill is D32, the spec's own choice, log 31): a right shift by one divides by 3 rounding to nearest, a left
shift by one multiplies by 3 and loses the top trit, a shift by the length or more gives zero. -/
def Obligations.ShiftScalesByPowersOfThree : Prop :=
  (∀ {L : Nat} (w : Word L), 1 ≤ L → w.val = 3 * (w.shift 1).val + (w.get L).toInt) ∧
  (∀ {L : Nat} (w : Word L), w.shift (-1) = Word.ofInt L (3 * w.val)) ∧
  (∀ {L : Nat} (w : Word L) (d : Int), (L : Int) ≤ |d| → w.shift d = Word.zero L)

/-- R148, R149: in both conventions a read outside the word gives 0, a write there changes nothing, and a write inside
replaces that trit only. R150, R155: an out-of-range slice, generic or Setun, is the word unchanged, and one in range is
the sub-word. That a negative lower bound of a generic slice is out of range is D31, the spec's own choice (log 30). -/
def Obligations.PositionAccessAndSlices : Prop :=
  ∀ {L : Nat} (w : Word L),
    (∀ (k : Int) (t : Trit), ¬(0 ≤ k ∧ k < L) → w.getG k = .zero ∧ w.setG k t = w) ∧
    (∀ (k : Int) (t : Trit), 0 ≤ k → k < L →
      (w.setG k t).getG k = t ∧ ∀ j, j ≠ k → (w.setG k t).getG j = w.getG j) ∧
    (∀ (i : Int) (t : Trit), ¬(1 ≤ i ∧ i ≤ L) → w.get i = .zero ∧ w.setS i t = w) ∧
    (∀ (i : Int) (t : Trit), 1 ≤ i → i ≤ L →
      (w.setS i t).get i = t ∧ ∀ j, j ≠ i → (w.setS i t).get j = w.get j) ∧
    (∀ lo hi : Int, lo > hi ∨ lo < 0 ∨ hi ≥ L → w.sliceGeneric lo hi = w.trits) ∧
    (∀ lo hi : Int, 0 ≤ lo → lo ≤ hi → hi < L →
      ∃ r : Word (hi - lo + 1).toNat, w.sliceGeneric lo hi = r.trits ∧
        ∀ k : Int, 0 ≤ k → k ≤ hi - lo → r.getG k = w.getG (lo + k)) ∧
    (∀ first last : Int, first > last ∨ first < 1 ∨ last > L → w.sliceSetun first last = w.trits) ∧
    (∀ first last : Int, 1 ≤ first → first ≤ last → last ≤ L →
      w.sliceSetun first last = (w.slice first.toNat (last - first + 1).toNat).trits)

/-- R164: the laws the source states for the ALU. -/
def Obligations.AluLawsOfTheSource : Prop :=
  (∀ a b : Trit, (a.and b) = Trit.ofSign (a.toInt * b.toInt)) ∧
  (∀ a : Trit, a.not.not = a) ∧
  (∀ a b c : Trit, a.toInt + b.toInt + c.toInt = (fullAdd a b c).1.toInt + 3 * (fullAdd a b c).2.toInt) ∧
  (∀ (n : Int) (L : Nat), |n| ≤ halfRange L → (Word.ofInt L n).val = n) ∧
  (∀ {L : Nat} (w : Word L), L ≤ 32 → symbolsToWord w.toSymbols = some w.trits) ∧
  (∀ {L : Nat} (cs : List Char) (w : Word L), symbolsToWord cs = some w.trits → w.toSymbols = cs) ∧
  (∀ {L : Nat} (n : Nat) (w : Word L), L ≤ n → (w.resize n).resize L = w) ∧
  (∀ {m n : Nat} (a : Word m) (b : Word n), (a.add b).trits = (b.add a).trits) ∧
  (∀ {L : Nat} (a : Word L), (a.add (Word.zero L)).trits = a.trits)

/-- R259 with the selection of D8 (the spec's own choice, log 18): MulSel is 3^9 times the product over 3^27 rounded to
nearest, and its magnitude is at most 193700403. -/
def Obligations.MulSelRoundsTheProduct : Prop :=
  ∀ x y : Word 18, ∃ q : Int, (mulSel x y).val = 3 ^ 9 * q ∧ 2 * |x.val * y.val - 3 ^ 27 * q| < 3 ^ 27 ∧
    |(mulSel x y).val| ≤ 193700403

/-! ### Accumulator and multiplier instructions -/

/-- LDS completes (R230; the short placement is D2): S takes the operand, W its sign, C advances, nothing else
changes. -/
def Obligations.LoadSTakesTheOperand : Prop :=
  ∀ (a : Word 5) (m : Trit) (s : State), accessible (s.ea a m) →
    ∃ M, framLoad s.fram (s.ea a m) = .ok M ∧
      exec (.lds a m) s = .next { s with S := M.to18, W := Trit.ofSign M.to18.val, C := nextAddress s.C }

/-- LDR and HLT complete (R242, R245; the placement is D2, that LDR leaves W is D7, that HLT stops in its own step D12,
the spec's own choices): R takes the operand; LDR advances C, HLT stops with STOP_DONE and leaves C. -/
def Obligations.LoadRAndHalt : Prop :=
  ∀ (a : Word 5) (m : Trit) (s : State), accessible (s.ea a m) →
    ∃ M, framLoad s.fram (s.ea a m) = .ok M ∧
      exec (.ldr a m) s = .next { s with R := M.to18, C := nextAddress s.C } ∧
      exec (.hlt a m) s = .next { s with R := M.to18, status := .stopDone }

/-- XOR completes (R239; W is D7 and four cells of the table are D10, the spec's own choices, log 17 and 20): each trit
of S is minus the sum of the two trits, clamped to -1..1; a short operand negates the low half of S. -/
def Obligations.XorCombinesTritByTrit : Prop :=
  ∀ (a : Word 5) (m : Trit) (s : State), accessible (s.ea a m) →
    ∃ M t, framLoad s.fram (s.ea a m) = .ok M ∧ exec (.xor a m) s = .next t ∧
      (∀ i : Int, (t.S.get i).toInt = -max (-1) (min 1 ((M.to18.get i).toInt + (s.S.get i).toInt))) ∧
      (∀ w, M = .short w → ∀ i : Int, 9 < i → t.S.get i = (s.S.get i).not) ∧
      t = { s with S := t.S, W := Trit.ofSign t.S.val, C := nextAddress s.C }

/-- ADD, SUB, MULA and MULB complete where the exact result x has an 18-trit representation (R233, R236, R263, R266,
R216; W is D7, the product's trits D8, the range test D9, the spec's own choices): S has exactly the value x, W its
sign, C advances, and nothing else changes but the unspecified ph1 and ph2 (and the counter of free values). -/
def Obligations.CheckedSumsInRange : Prop :=
  ∀ (a : Word 5) (m : Trit) (s : State), accessible (s.ea a m) →
    ∃ M, framLoad s.fram (s.ea a m) = .ok M ∧
      ∀ (i : Instr) (x : Int),
        (i, x) ∈ [(Instr.add a m, s.S.val + M.to18.val), (.sub a m, s.S.val - M.to18.val),
          (.mula a m, s.S.val + (mulSel M.to18 s.R).val), (.mulb a m, M.to18.val + (mulSel s.S s.R).val)] →
        |x| ≤ 193710244 →
        ∃ t, exec i s = .next t ∧ t.S.val = x ∧
          t = { s with S := t.S, W := Trit.ofSign x, C := nextAddress s.C, ph1 := t.ph1, ph2 := t.ph2,
                       freeCount := t.freeCount }

/-- R217 (the range test is D9): where x has no 18-trit representation, ADD, SUB, MULA and MULB stop with STOP_OVER, and
C, W, R and everything but S (and the unspecified ph1 and ph2) stay. What S holds then is left out here, since
93_implementation_defined.md asks that no proof rely on it. -/
def Obligations.CheckedSumsOverflow : Prop :=
  ∀ (a : Word 5) (m : Trit) (s : State), accessible (s.ea a m) →
    ∃ M, framLoad s.fram (s.ea a m) = .ok M ∧
      ∀ (i : Instr) (x : Int),
        (i, x) ∈ [(Instr.add a m, s.S.val + M.to18.val), (.sub a m, s.S.val - M.to18.val),
          (.mula a m, s.S.val + (mulSel M.to18 s.R).val), (.mulb a m, M.to18.val + (mulSel s.S s.R).val)] →
        193710244 < |x| →
        ∃ t, exec i s = .next t ∧
          t = { s with S := t.S, status := .stopOver, ph1 := t.ph1, ph2 := t.ph2, freeCount := t.freeCount }

/-- MUL always completes on an accessible operand: its overflow check never fires (R260, R259; D8, D25 and W by D7 are
the spec's own choices). R takes the high half of S, S the selected product of the operand and the new R. -/
def Obligations.MulNeverOverflows : Prop :=
  ∀ (a : Word 5) (m : Trit) (s : State), accessible (s.ea a m) →
    ∃ M t, framLoad s.fram (s.ea a m) = .ok M ∧ exec (.mul a m) s = .next t ∧
      t.R = (s.S.slice 1 9).atHigh ∧ t.S = mulSel M.to18 t.R ∧
      t = { s with S := t.S, R := t.R, W := Trit.ofSign t.S.val, C := nextAddress s.C, ph1 := t.ph1, ph2 := t.ph2,
                   freeCount := t.freeCount }

/-! ### Control transfer -/

/-- R280, R283, R286, R289: BZ, BP and BN jump to the effective address when W is 0, + or -, and else advance C; JMP
always jumps; nothing else changes. That the target is A[1:5] with no link (R279) is D24, that no branch writes W is D7,
the spec's own choices (log 23, log 17). -/
def Obligations.BranchesFollowW : Prop :=
  ∀ (a : Word 5) (m : Trit) (s : State),
    (s.W = .zero → exec (.bz a m) s = .next { s with C := s.ea a m }) ∧
    (s.W ≠ .zero → exec (.bz a m) s = .next { s with C := nextAddress s.C }) ∧
    (s.W = .pos → exec (.bp a m) s = .next { s with C := s.ea a m }) ∧
    (s.W ≠ .pos → exec (.bp a m) s = .next { s with C := nextAddress s.C }) ∧
    (s.W = .neg → exec (.bn a m) s = .next { s with C := s.ea a m }) ∧
    (s.W ≠ .neg → exec (.bn a m) s = .next { s with C := nextAddress s.C }) ∧
    exec (.jmp a m) s = .next { s with C := s.ea a m }

/-! ### Stores -/

/-- STC completes (R290; the widths are D4, that W stays is D7, the spec's own choices): the address of the STC itself
is stored, C advances, nothing else changes. -/
def Obligations.StoreCStoresItsOwnAddress : Prop :=
  ∀ (a : Word 5) (m : Trit) (s : State), s.canonical → accessible (s.ea a m) →
    ∃ fram', exec (.stc a m) s = .next { s with fram := fram', C := nextAddress s.C } ∧
      rowsAfterStore s.fram fram' (s.ea a m) (s.C.resize 18)

/-- STF completes (R300; the widths are D4, the spec's own choice): F is stored, W takes its sign. -/
def Obligations.StoreFStoresF : Prop :=
  ∀ (a : Word 5) (m : Trit) (s : State), s.canonical → accessible (s.ea a m) →
    ∃ fram', exec (.stf a m) s =
        .next { s with fram := fram', W := Trit.ofSign s.F.val, C := nextAddress s.C } ∧
      rowsAfterStore s.fram fram' (s.ea a m) (s.F.resize 18)

/-- STS completes (R323; the widths are D4, the spec's own choice): S is stored, its low half alone at a short address,
and W takes its sign. -/
def Obligations.StoreSStoresS : Prop :=
  ∀ (a : Word 5) (m : Trit) (s : State), s.canonical → accessible (s.ea a m) →
    ∃ fram', exec (.sts a m) s =
        .next { s with fram := fram', W := Trit.ofSign s.S.val, C := nextAddress s.C } ∧
      rowsAfterStore s.fram fram' (s.ea a m) s.S

/-- NRM completes (R326; that S takes the count as an integer and W its sign is D17, the spec's own choice, log 26): the
count N is 0 for a zero or normalized S, 1 when S[1] is nonzero, and else 2 less the position of the first nonzero
trit; S shifted by N, which is normalized unless zero, is stored. -/
def Obligations.NormalizeStoresTheNormalizedWord : Prop :=
  ∀ (a : Word 5) (m : Trit) (s : State), s.canonical → accessible (s.ea a m) →
    ∃ (N : Int) (fram' : Memory) (t : State), exec (.nrm a m) s = .next t ∧
      t = { s with fram := fram', S := t.S, W := Trit.ofSign N, C := nextAddress s.C } ∧ t.S.val = N ∧
      rowsAfterStore s.fram fram' (s.ea a m) (s.S.shift N) ∧
      (s.S = Word.zero 18 → N = 0) ∧
      (s.S.get 1 = .zero → s.S.get 2 ≠ .zero → N = 0) ∧
      (s.S.get 1 ≠ .zero → N = 1) ∧
      (∀ j : Int, 3 ≤ j → s.S.get j ≠ .zero → (∀ i, i < j → s.S.get i = .zero) → N = 2 - j) ∧
      (s.S ≠ Word.zero 18 → (s.S.shift N).get 1 = .zero ∧ (s.S.shift N).get 2 ≠ .zero) ∧
      -16 ≤ N ∧ N ≤ 1

/-! ### Index register and shift -/

/-- LDF, LFC and ADF complete (R303, R306, R309; the five low trits of the operand are D3, the spec's own choice, log
13): F takes the operand, C + operand or F + operand modulo 3^5, W its sign, C advances, nothing else changes. -/
def Obligations.IndexLoadsAndSums : Prop :=
  ∀ (a : Word 5) (m : Trit) (s : State), accessible (s.ea a m) →
    ∃ M, framLoad s.fram (s.ea a m) = .ok M ∧
      ∀ (i : Instr) (x : Int),
        (i, x) ∈ [(Instr.ldf a m, M.trunc5.val), (.lfc a m, s.C.val + M.trunc5.val),
          (.adf a m, s.F.val + M.trunc5.val)] →
        ∃ t, exec i s = .next t ∧ t.F.val = Int.bmod x 243 ∧
          t = { s with F := t.F, W := Trit.ofSign t.F.val, C := nextAddress s.C }

/-- SHF completes (R320; the count is D3 and the zero fill D32, the spec's own choices): position i of the new S is
position i - d of the old one, d the value of the whole raw operand, and W takes its sign. -/
def Obligations.ShiftMovesSByTheOperandsValue : Prop :=
  ∀ (a : Word 5) (m : Trit) (s : State), accessible (s.ea a m) →
    ∃ M t, framLoad s.fram (s.ea a m) = .ok M ∧ exec (.shf a m) s = .next t ∧
      (∀ i : Int, 1 ≤ i → i ≤ 18 →
        t.S.get i = if 1 ≤ i - M.val ∧ i - M.val ≤ 18 then s.S.get (i - M.val) else .zero) ∧
      t = { s with S := t.S, W := Trit.ofSign t.S.val, C := nextAddress s.C }

/-! ### Block transfer, I/O and the reserved codes -/

/-- R85: the drum zone is the field's value less one, clamped to 0..35, and the drum row is clamped to 0..53. -/
def Obligations.DrumDecodeClamps : Prop :=
  (∀ z : Word 4, (z.val ≤ 1 → zone z = 0) ∧ (1 ≤ z.val → z.val ≤ 36 → (zone z : Int) = z.val - 1) ∧
    (36 ≤ z.val → zone z = 35)) ∧
  (∀ i : Int, (i ≤ 0 → drow i = 0) ∧ (0 ≤ i → i ≤ 53 → (drow i : Int) = i) ∧ (53 ≤ i → drow i = 53))

/-- R87 with the start of D14 (the spec's own choice, log 24): cursor i of a transfer addresses page i mod 2, row base +
i/2, and is never long. -/
def Obligations.TransferCursorWalksTheThird : Prop :=
  ∀ (a : Word 5) (i : Nat), i < 54 →
    (nextAddress^[i] (transferStart a)).get 5 ≠ .neg ∧ page (nextAddress^[i] (transferStart a)) = i % 2 ∧
    row (nextAddress^[i] (transferStart a)) = thirdBase a + i / 2

/-- F2D completes (R340, R88; D14, D15, D26 are the spec's own choices): MB takes A[2:5], the 54 words of the third go to
the drum zone in order, every other drum row stays, C advances and nothing else changes. -/
def Obligations.FramToDrumCopiesTheThird : Prop :=
  ∀ (a : Word 5) (m : Trit) (s : State),
    ∃ drum', exec (.f2d a m) s =
        .next { s with MB := (s.ea a m).slice 2 4, drum := drum', C := nextAddress s.C } ∧
      (s.canonical →
        (∀ i, i < 54 → drumRow drum' (zone ((s.ea a m).slice 2 4)) i =
          framRow s.fram (i % 2) (thirdBase (s.ea a m) + i / 2)) ∧
        (∀ z i, z < 36 → i < 54 → z ≠ zone ((s.ea a m).slice 2 4) → drumRow drum' z i = drumRow s.drum z i))

/-- D2F completes (R342, R89; D14, D15, D26 are the spec's own choices): MB takes A[2:5], the drum zone's words fill the
third in order, every other FRAM row stays, C advances and nothing else changes. -/
def Obligations.DrumToFramFillsTheThird : Prop :=
  ∀ (a : Word 5) (m : Trit) (s : State),
    ∃ fram', exec (.d2f a m) s =
        .next { s with MB := (s.ea a m).slice 2 4, fram := fram', C := nextAddress s.C } ∧
      (s.canonical →
        (∀ i, i < 54 → framRow fram' (i % 2) (thirdBase (s.ea a m) + i / 2) =
          drumRow s.drum (zone ((s.ea a m).slice 2 4)) i) ∧
        (∀ p r, p < 2 → r < 81 → (r < thirdBase (s.ea a m) ∨ thirdBase (s.ea a m) + 27 ≤ r) →
          framRow fram' p r = framRow s.fram p r))

/-- R90: a transfer to a drum zone and back from the same zone copies the 54 words of the first third into the second,
word for word, and leaves FRAM as it was when the two thirds are the same. -/
def Obligations.TransferRoundTripReproducesTheThird : Prop :=
  ∀ (a a' : Word 5) (fram drum : Memory), fram.wf 162 = true → drum.wf 1944 = true →
    a'.slice 2 4 = a.slice 2 4 →
    (∀ i, i < 54 → framRow (drumToFram a' fram (framToDrum a fram drum)) (i % 2) (thirdBase a' + i / 2) =
      framRow fram (i % 2) (thirdBase a + i / 2)) ∧
    (a'.get 1 = a.get 1 → drumToFram a' fram (framToDrum a fram drum) = fram)

/-- IO completes and changes nothing but C (R345; that C advances is D28, the spec's own choice). -/
def Obligations.IoIsANoOp : Prop :=
  ∀ (a : Word 5) (m : Trit) (s : State), exec (.io a m) s = .next { s with C := nextAddress s.C }

/-- R347: the reserved codes -11, -12 and -13 set STOP_ERROR, always, and write nothing else, C included. -/
def Obligations.ReservedCodesStopWithError : Prop :=
  ∀ (a : Word 5) (m : Trit) (s : State),
    exec (.rsv11 a m) s = .next { s with status := .stopError } ∧
    exec (.rsv12 a m) s = .next { s with status := .stopError } ∧
    exec (.rsv13 a m) s = .next { s with status := .stopError }

/-! ### The host -/

/-- R395 (D34, the spec's own choice): a host word write puts the word into the addressed row, or for a long address
into the next row with the addressed one cleared, and writes nothing else; at row 80 it is refused. -/
def Obligations.HostStoreWritesOneWord : Prop :=
  ∀ (a : Word 5) (w : Word 9) (s : State), s.canonical →
    (accessible a → ∃ fram', hostStore a w s = .ok { s with fram := fram' } ∧
      rowsAfterStore s.fram fram' a (w.resize 18)) ∧
    (¬accessible a → hostStore a w s = .error .longAccessRow80)
end

