-- ==== Sys2Proof/Laws/Word.lean ====
section
/-! SUPPORT. The trit at each position of every word operation, and equality of words position by position. -/

namespace Sys2Proof

@[simp] theorem Trit.not_not (t : Trit) : t.not.not = t := by cases t <;> rfl

theorem Trit.toInt_not (t : Trit) : t.not.toInt = -t.toInt := by cases t <;> rfl

theorem Trit.toInt_and (a b : Trit) : (a.and b).toInt = a.toInt * b.toInt := by cases a <;> cases b <;> rfl

theorem Trit.xor_comm (a b : Trit) : a.xor b = b.xor a := by cases a <;> cases b <;> rfl

theorem Trit.toInt_cases (t : Trit) : t.toInt = -1 ∨ t.toInt = 0 ∨ t.toInt = 1 := by cases t <;> simp [Trit.toInt]

theorem Trit.toInt_injective {a b : Trit} (h : a.toInt = b.toInt) : a = b := by
  cases a <;> cases b <;> simp_all [Trit.toInt]

@[simp] theorem Trit.ofSign_toInt (t : Trit) : Trit.ofSign t.toInt = t := by cases t <;> rfl

/-- The defining equation of the full adder (40_alu.md R146), on all 27 triples. -/
theorem fullAdd_sum (a b c : Trit) :
    a.toInt + b.toInt + c.toInt = (fullAdd a b c).1.toInt + 3 * (fullAdd a b c).2.toInt := by
  cases a <;> cases b <;> cases c <;> decide

namespace Word

variable {L : Nat}

theorem get_eq_getD (w : Word L) {i : Int} (h : 1 ≤ i) : w.get i = w.trits.getD (i - 1).toNat .zero := by
  simp [get, h]

/-- Reading below position 1 gives 0 (40_alu.md R149). -/
theorem get_of_lt (w : Word L) {i : Int} (h : i < 1) : w.get i = .zero := by
  simp [get, Int.not_le.mpr h]

/-- Reading above position L gives 0 (40_alu.md R149). -/
theorem get_of_gt (w : Word L) {i : Int} (h : (L : Int) < i) : w.get i = .zero := by
  rw [get_eq_getD w (by omega)]
  apply List.getD_eq_default
  rw [w.length_eq]; omega

/-- Two words are equal if they agree at every position. -/
theorem ext_get {a b : Word L} (h : ∀ i : Int, 1 ≤ i → i ≤ L → a.get i = b.get i) : a = b := by
  obtain ⟨as, ha⟩ := a
  obtain ⟨bs, hb⟩ := b
  congr 1
  apply List.ext_getElem (by rw [ha, hb])
  intro n h1 h2
  have := h ((n : Int) + 1) (by omega) (by omega)
  have hn : ((n : Int) + 1 - 1).toNat = n := by omega
  simpa [get, h1, h2, show (1 : Int) ≤ (n : Int) + 1 by omega] using this

@[simp] theorem get_ofFn (f : Int → Trit) (i : Int) :
    (ofFn L f).get i = if 1 ≤ i ∧ i ≤ L then f i else .zero := by
  by_cases h1 : 1 ≤ i
  · by_cases h2 : i ≤ L
    · have hlt : (i - 1).toNat < L := by omega
      have hi : ((i - 1).toNat : Int) + 1 = i := by omega
      rw [get_eq_getD _ h1, if_pos ⟨h1, h2⟩, List.getD_eq_getElem?_getD]
      simp only [ofFn, List.getElem?_map, List.getElem?_range hlt, Option.map_some, Option.getD_some, hi]
    · rw [get_of_gt _ (by omega)]; simp [h2]
  · rw [get_of_lt _ (by omega)]; simp [h1]

@[simp] theorem get_zero (i : Int) : (zero L).get i = .zero := by
  unfold get zero
  split
  · simp [List.getD_eq_getElem?_getD]
  · rfl

theorem get_append {m n : Nat} (a : Word m) (b : Word n) (i : Int) :
    (a.append b).get i = if i ≤ m then a.get i else b.get (i - m) := by
  by_cases h1 : 1 ≤ i
  · rw [get_eq_getD _ h1]
    simp only [append, List.getD_eq_getElem?_getD]
    by_cases h2 : i ≤ m
    · rw [List.getElem?_append_left (by rw [a.length_eq]; omega), if_pos h2, get_eq_getD _ h1]
      simp [List.getD_eq_getElem?_getD]
    · rw [List.getElem?_append_right (by rw [a.length_eq]; omega), if_neg h2, get_eq_getD _ (by omega), a.length_eq]
      have : (i - 1).toNat - m = (i - m - 1).toNat := by omega
      rw [List.getD_eq_getElem?_getD, this]
  · rw [get_of_lt _ (by omega)]
    split
    · rw [get_of_lt _ (by omega)]
    · rw [get_of_lt _ (by omega)]

/-- A word is made of its own positions. -/
theorem ofFn_get (w : Word L) : ofFn L w.get = w :=
  ext_get fun i h1 h2 => by simp [h1, h2]

theorem get_slice (w : Word L) (start len : Nat) (i : Int) :
    (w.slice start len).get i = if 1 ≤ i ∧ i ≤ len then w.get (start - 1 + i) else .zero := by
  simp [slice]

theorem get_resize (n : Nat) (w : Word L) (i : Int) :
    (w.resize n).get i = if 1 ≤ i ∧ i ≤ n then w.get (L - (n - i)) else .zero := by
  simp [resize, getG]

theorem get_of_not_mem (w : Word L) {i : Int} (h : ¬(1 ≤ i ∧ i ≤ L)) : w.get i = .zero := by
  by_cases h1 : i < 1
  · exact get_of_lt w h1
  · exact get_of_gt w (by omega)

theorem get_setS (w : Word L) (i j : Int) (t : Trit) :
    (w.setS i t).get j = if 1 ≤ j ∧ j ≤ L ∧ j = i then t else w.get j := by
  rw [setS, get_ofFn]
  by_cases h : 1 ≤ j ∧ j ≤ L
  · simp [h]
  · rw [if_neg h, if_neg (fun h' => h ⟨h'.1, h'.2.1⟩), get_of_not_mem w h]

theorem get_shift (w : Word L) (d i : Int) :
    (w.shift d).get i = if 1 ≤ i ∧ i ≤ L then w.get (i - d) else .zero := by
  simp [shift]

theorem get_neg (w : Word L) (i : Int) : w.neg.get i = (w.get i).not := by
  simp only [neg, not, get_ofFn]
  split
  · rfl
  · next h =>
    by_cases h1 : i < 1
    · rw [get_of_lt _ h1]; rfl
    · rw [get_of_gt _ (by omega)]; rfl

theorem get_xor (x y : Word L) (i : Int) : (x.xor y).get i = (x.get i).xor (y.get i) := by
  simp only [xor, get_ofFn]
  split
  · rfl
  · next h =>
    by_cases h1 : i < 1
    · rw [get_of_lt _ h1, get_of_lt _ h1]; rfl
    · rw [get_of_gt _ (by omega), get_of_gt _ (by omega)]; rfl

/-- `copy_resize` to a word's own length changes nothing. -/
@[simp] theorem resize_self (w : Word L) : w.resize L = w :=
  ext_get fun i h1 h2 => by rw [get_resize, if_pos ⟨h1, h2⟩]; congr 1; omega

/-- Shifting by 0 is the identity (40_alu.md R157). -/
@[simp] theorem shift_zero (w : Word L) : w.shift 0 = w :=
  ext_get fun i h1 h2 => by rw [get_shift, if_pos ⟨h1, h2⟩, Int.sub_zero]

/-- The two halves of a long word. -/
theorem slice_append_left {m n : Nat} (a : Word m) (b : Word n) : (a.append b).slice 1 m = a :=
  ext_get fun i h1 h2 => by
    rw [get_slice, if_pos ⟨h1, h2⟩, get_append, if_pos (by omega)]; congr 1; omega

theorem slice_append_right {m n : Nat} (a : Word m) (b : Word n) : (a.append b).slice (m + 1) n = b :=
  ext_get fun i h1 h2 => by
    rw [get_slice, if_pos ⟨h1, h2⟩, get_append, if_neg (by omega)]; congr 1; omega

theorem get_long (hi lo : Word 9) (i : Int) :
    (long hi lo).get i = if i ≤ 9 then hi.get i else lo.get (i - 9) := get_append hi lo i

@[simp] theorem slice_long_high (hi lo : Word 9) : (long hi lo).slice 1 9 = hi := slice_append_left hi lo

@[simp] theorem slice_long_low (hi lo : Word 9) : (long hi lo).slice 10 9 = lo := slice_append_right hi lo

theorem get_atHigh (w : Word 9) (i : Int) : w.atHigh.get i = if i ≤ 9 then w.get i else .zero := by
  rw [atHigh, get_long, get_zero]

@[simp] theorem sgn_zero : (zero L).sgn = .zero := by
  have : ∀ n, firstNonzero (List.replicate n Trit.zero) = .zero := by
    intro n; induction n with
    | zero => rfl
    | succ n ih => simpa [List.replicate_succ, firstNonzero] using ih
  exact this L

/-- The value of a list of trits, one more trit at the low end. -/
theorem val_concat (l : List Trit) (t : Trit) :
    (l ++ [t]).foldl (fun acc t => 3 * acc + t.toInt) 0 =
      3 * l.foldl (fun acc t => 3 * acc + t.toInt) 0 + t.toInt := by
  simp

theorem val_zero : (zero L).val = 0 := by
  have : ∀ n, (List.replicate n Trit.zero).foldl (fun acc t => 3 * acc + t.toInt) 0 = 0 := by
    intro n; induction n with
    | zero => rfl
    | succ n ih => simpa [List.replicate_succ, Trit.toInt] using ih
  exact this L

end Word

/-- A short operand delivered to 18 trits: positions 1-9 the row, the rest 0 (20_memory.md R79). -/
theorem RawWord.get_to18_short (w : Word 9) (i : Int) :
    (RawWord.short w).to18.get i = if i ≤ 9 then w.get i else .zero := Word.get_atHigh w i

@[simp] theorem RawWord.to18_long (w : Word 18) : (RawWord.long w).to18 = w := rfl

end Sys2Proof
end

