-- ==== Sys2Proof/Laws/Memory.lean ====
section
/-! SUPPORT. The sparse memory: read after write, the canonical form and that every memory operation keeps it. -/

namespace Sys2Proof.Machine

namespace Memory

theorem wfFrom_mono {size lo lo' : Nat} {m : Memory} (h : wfFrom size lo m = true) (hle : lo' ≤ lo) :
    wfFrom size lo' m = true := by
  cases m with
  | nil => rfl
  | cons c m =>
    simp only [wfFrom, Bool.and_eq_true, decide_eq_true_eq] at h ⊢
    exact ⟨⟨⟨by omega, h.1.1.2⟩, h.1.2⟩, h.2⟩

/-- A row below every listed one is unlisted. -/
theorem read_below {size lo k : Nat} {m : Memory} (h : wfFrom size lo m = true) (hk : k < lo) :
    m.read k = Word.zero 9 := by
  induction m generalizing lo with
  | nil => rfl
  | cons c m ih =>
    simp only [wfFrom, Bool.and_eq_true, decide_eq_true_eq] at h
    rw [read, if_neg (by omega)]
    exact ih h.2 (by omega)

/-- A row beyond the memory reads as zero. -/
theorem read_beyond {size lo k : Nat} {m : Memory} (h : wfFrom size lo m = true) (hk : size ≤ k) :
    m.read k = Word.zero 9 := by
  induction m generalizing lo with
  | nil => rfl
  | cons c m ih =>
    simp only [wfFrom, Bool.and_eq_true, decide_eq_true_eq] at h
    rw [read, if_neg (by omega)]
    exact ih h.2

theorem wfFrom_write {size lo k : Nat} {m : Memory} {w : Word 9} (h : wfFrom size lo m = true) (hlo : lo ≤ k)
    (hk : k < size) : wfFrom size lo (m.write k w) = true := by
  induction m generalizing lo with
  | nil =>
    by_cases hw : w = Word.zero 9
    · simp [write, hw, wfFrom]
    · simp [write, hw, wfFrom, hlo, hk]
  | cons c m ih =>
    obtain ⟨k', w'⟩ := c
    have h' := h
    simp only [wfFrom, Bool.and_eq_true, decide_eq_true_eq] at h
    obtain ⟨⟨⟨h1, h2⟩, h3⟩, h4⟩ := h
    rw [write]
    split
    · next hlt =>
      split
      · exact h'
      · next hw =>
        simp only [wfFrom, Bool.and_eq_true, decide_eq_true_eq]
        exact ⟨⟨⟨hlo, hk⟩, hw⟩, ⟨⟨hlt, h2⟩, h3⟩, h4⟩
    · split
      · next he =>
        subst he
        split
        · exact wfFrom_mono h4 (by omega)
        · next hw =>
          simp only [wfFrom, Bool.and_eq_true, decide_eq_true_eq]
          exact ⟨⟨⟨hlo, hk⟩, hw⟩, h4⟩
      · next hnlt hne =>
        simp only [wfFrom, Bool.and_eq_true, decide_eq_true_eq]
        exact ⟨⟨⟨h1, h2⟩, h3⟩, ih h4 (by omega)⟩

/-- Every write keeps the canonical form. -/
theorem wf_write {size k : Nat} {m : Memory} {w : Word 9} (h : m.wf size = true) (hk : k < size) :
    (m.write k w).wf size = true := wfFrom_write h (Nat.zero_le k) hk

/-- The empty list is canonical: both memories after reset. -/
theorem wf_nil (size : Nat) : wf size [] = true := rfl

theorem read_write_of_wfFrom {size lo k j : Nat} {m : Memory} {w : Word 9} (h : wfFrom size lo m = true) :
    (m.write k w).read j = if j = k then w else m.read j := by
  induction m generalizing lo with
  | nil =>
    by_cases hw : w = Word.zero 9
    · simp [write, read, hw]
    · simp [write, read, hw]
  | cons c m ih =>
    obtain ⟨k', w'⟩ := c
    simp only [wfFrom, Bool.and_eq_true, decide_eq_true_eq] at h
    obtain ⟨-, h4⟩ := h
    rw [write]
    split
    · next hlt =>
      split
      · next hw =>
        by_cases hj : j = k
        · subst hj
          rw [if_pos rfl, read, if_neg (by omega), read_below h4 (by omega), hw]
        · rw [if_neg hj]
      · rw [read]
    · split
      · next he =>
        subst he
        split
        · next hw =>
          by_cases hj : j = k
          · subst hj
            rw [if_pos rfl, read_below h4 (by omega), hw]
          · rw [if_neg hj, read, if_neg hj]
        · by_cases hj : j = k
          · rw [read, if_pos hj, if_pos hj]
          · rw [read, if_neg hj, if_neg hj, read, if_neg hj]
      · next hnlt hne =>
        rw [read, ih h4, read]
        by_cases hj : j = k'
        · rw [if_pos hj, if_pos hj, if_neg (by omega)]
        · rw [if_neg hj, if_neg hj]

/-- Reading after a write: the written row holds the word, every other row is as before. -/
theorem read_write {size k j : Nat} {m : Memory} {w : Word 9} (h : m.wf size = true) :
    (m.write k w).read j = if j = k then w else m.read j := read_write_of_wfFrom h

theorem ext_read_from {size lo : Nat} {m m' : Memory} (h : wfFrom size lo m = true)
    (h' : wfFrom size lo m' = true) (hr : ∀ k, m.read k = m'.read k) : m = m' := by
  induction m generalizing lo m' with
  | nil =>
    cases m' with
    | nil => rfl
    | cons c m' =>
      simp only [wfFrom, Bool.and_eq_true, decide_eq_true_eq] at h'
      have := hr c.1
      rw [read, read, if_pos rfl] at this
      exact absurd this.symm h'.1.2
  | cons c m ih =>
    obtain ⟨k, w⟩ := c
    have hm := h
    simp only [wfFrom, Bool.and_eq_true, decide_eq_true_eq] at h
    cases m' with
    | nil =>
      have := hr k
      rw [read, read, if_pos rfl] at this
      exact absurd this h.1.2
    | cons c' m' =>
      obtain ⟨k', w'⟩ := c'
      have hm' := h'
      simp only [wfFrom, Bool.and_eq_true, decide_eq_true_eq] at h'
      have hk : k = k' := by
        rcases Nat.lt_trichotomy k k' with hlt | heq | hgt
        · have := hr k
          rw [read, if_pos rfl, read, if_neg (by omega), read_below h'.2 (by omega)] at this
          exact absurd this h.1.2
        · exact heq
        · have := hr k'
          rw [read, if_neg (by omega), read, if_pos rfl, read_below h.2 (by omega)] at this
          exact absurd this.symm h'.1.2
      subst hk
      have hw : w = w' := by
        have := hr k
        rwa [read, if_pos rfl, read, if_pos rfl] at this
      subst hw
      rw [ih h.2 h'.2 fun j => ?_]
      have := hr j
      by_cases hj : j = k
      · rw [read_below h.2 (by omega), read_below h'.2 (by omega)]
      · rwa [read, if_neg hj, read, if_neg hj] at this

/-- Canonical memories that read alike are equal as data. -/
theorem ext_read {size : Nat} {m m' : Memory} (h : m.wf size = true) (h' : m'.wf size = true)
    (hr : ∀ k, m.read k = m'.read k) : m = m' := ext_read_from h h' hr

end Memory

/-! ### Rows, pages, zones stay in range -/

theorem row_le (a : Word 5) : row a ≤ 80 := by
  unfold row
  rcases (a.get 1).toInt_cases with h1 | h1 | h1 <;> rcases (a.get 2).toInt_cases with h2 | h2 | h2 <;>
    rcases (a.get 3).toInt_cases with h3 | h3 | h3 <;> rcases (a.get 4).toInt_cases with h4 | h4 | h4 <;>
    rw [h1, h2, h3, h4] <;> decide

theorem page_le (a : Word 5) : page a ≤ 1 := by unfold page; split <;> decide

theorem framIndex_page_row_lt (a : Word 5) : framIndex (page a) (row a) < 162 := by
  have := row_le a
  have := page_le a
  unfold framIndex; omega

theorem zone_le (z : Word 4) : zone z ≤ 35 := by unfold zone; omega

theorem drow_le (i : Int) : drow i ≤ 53 := by unfold drow; omega

theorem drumIndex_lt (z : Word 4) (i : Int) : drumIndex (zone z) (drow i) < 1944 := by
  have := zone_le z
  have := drow_le i
  unfold drumIndex; omega

/-! ### Every memory operation keeps the canonical form -/

theorem framStore_wf {L : Nat} {fram fram' : Memory} {a : Word 5} {v : Word L} (h : fram.wf 162 = true)
    (hs : framStore fram a v = .ok fram') : fram'.wf 162 = true := by
  unfold framStore at hs
  split at hs
  · split at hs
    · cases hs
    · next hrow =>
      have hr := row_le a
      cases hs
      apply Memory.wf_write
      · apply Memory.wf_write h
        unfold framIndex; omega
      · unfold framIndex; omega
  · cases hs
    exact Memory.wf_write h (framIndex_page_row_lt a)

theorem drumStore_wf {drum : Memory} {z : Word 4} {i : Int} {w : Word 9} (h : drum.wf 1944 = true) :
    (drumStore drum z i w).wf 1944 = true :=
  Memory.wf_write h (drumIndex_lt z i)

theorem framToDrumFrom_wf {fram drum : Memory} {z : Word 4} {n i : Nat} {cur : Word 5} (h : drum.wf 1944 = true) :
    (framToDrumFrom fram z n i cur drum).wf 1944 = true := by
  induction n generalizing i cur drum with
  | zero => exact h
  | succ n ih => exact ih (drumStore_wf h)

theorem drumToFramFrom_wf {fram drum : Memory} {z : Word 4} {n i : Nat} {cur : Word 5} (h : fram.wf 162 = true) :
    (drumToFramFrom drum z n i cur fram).wf 162 = true := by
  induction n generalizing i cur fram with
  | zero => exact h
  | succ n ih => exact ih (Memory.wf_write h (framIndex_page_row_lt cur))

theorem framToDrum_wf {fram drum : Memory} {a : Word 5} (h : drum.wf 1944 = true) :
    (framToDrum a fram drum).wf 1944 = true := by
  unfold framToDrum; exact framToDrumFrom_wf h

theorem drumToFram_wf {fram drum : Memory} {a : Word 5} (h : fram.wf 162 = true) :
    (drumToFram a fram drum).wf 162 = true := by
  unfold drumToFram; exact drumToFramFrom_wf h

theorem hostStore_canonical {a : Word 5} {w : Word 9} {s t : State} (h : s.canonical)
    (hs : hostStore a w s = .ok t) : t.canonical := by
  unfold hostStore at hs
  split at hs
  · next hf => cases hs; exact ⟨framStore_wf h.1 hf, h.2⟩
  · cases hs

end Sys2Proof.Machine
end

