-- ==== Sys2Proof/Laws/State.lean ====
section
/-! SUPPORT. One lemma for each field of each state update, so that no proof unfolds a record update. -/

namespace Sys2Proof.Machine.State

variable (s : State)

/-! ### setK -/

@[simp] theorem setK_K (v : Word 9) : (s.setK v).K = v := rfl
@[simp] theorem setK_F (v : Word 9) : (s.setK v).F = s.F := rfl
@[simp] theorem setK_C (v : Word 9) : (s.setK v).C = s.C := rfl
@[simp] theorem setK_W (v : Word 9) : (s.setK v).W = s.W := rfl
@[simp] theorem setK_S (v : Word 9) : (s.setK v).S = s.S := rfl
@[simp] theorem setK_R (v : Word 9) : (s.setK v).R = s.R := rfl
@[simp] theorem setK_MB (v : Word 9) : (s.setK v).MB = s.MB := rfl
@[simp] theorem setK_MR (v : Word 9) : (s.setK v).MR = s.MR := rfl
@[simp] theorem setK_ph1 (v : Word 9) : (s.setK v).ph1 = s.ph1 := rfl
@[simp] theorem setK_ph2 (v : Word 9) : (s.setK v).ph2 = s.ph2 := rfl
@[simp] theorem setK_status (v : Word 9) : (s.setK v).status = s.status := rfl
@[simp] theorem setK_fram (v : Word 9) : (s.setK v).fram = s.fram := rfl
@[simp] theorem setK_drum (v : Word 9) : (s.setK v).drum = s.drum := rfl
@[simp] theorem setK_freeCount (v : Word 9) : (s.setK v).freeCount = s.freeCount := rfl

/-! ### setF -/

@[simp] theorem setF_K (v : Word 5) : (s.setF v).K = s.K := rfl
@[simp] theorem setF_F (v : Word 5) : (s.setF v).F = v := rfl
@[simp] theorem setF_C (v : Word 5) : (s.setF v).C = s.C := rfl
@[simp] theorem setF_W (v : Word 5) : (s.setF v).W = s.W := rfl
@[simp] theorem setF_S (v : Word 5) : (s.setF v).S = s.S := rfl
@[simp] theorem setF_R (v : Word 5) : (s.setF v).R = s.R := rfl
@[simp] theorem setF_MB (v : Word 5) : (s.setF v).MB = s.MB := rfl
@[simp] theorem setF_MR (v : Word 5) : (s.setF v).MR = s.MR := rfl
@[simp] theorem setF_ph1 (v : Word 5) : (s.setF v).ph1 = s.ph1 := rfl
@[simp] theorem setF_ph2 (v : Word 5) : (s.setF v).ph2 = s.ph2 := rfl
@[simp] theorem setF_status (v : Word 5) : (s.setF v).status = s.status := rfl
@[simp] theorem setF_fram (v : Word 5) : (s.setF v).fram = s.fram := rfl
@[simp] theorem setF_drum (v : Word 5) : (s.setF v).drum = s.drum := rfl
@[simp] theorem setF_freeCount (v : Word 5) : (s.setF v).freeCount = s.freeCount := rfl

/-! ### setC -/

@[simp] theorem setC_K (v : Word 5) : (s.setC v).K = s.K := rfl
@[simp] theorem setC_F (v : Word 5) : (s.setC v).F = s.F := rfl
@[simp] theorem setC_C (v : Word 5) : (s.setC v).C = v := rfl
@[simp] theorem setC_W (v : Word 5) : (s.setC v).W = s.W := rfl
@[simp] theorem setC_S (v : Word 5) : (s.setC v).S = s.S := rfl
@[simp] theorem setC_R (v : Word 5) : (s.setC v).R = s.R := rfl
@[simp] theorem setC_MB (v : Word 5) : (s.setC v).MB = s.MB := rfl
@[simp] theorem setC_MR (v : Word 5) : (s.setC v).MR = s.MR := rfl
@[simp] theorem setC_ph1 (v : Word 5) : (s.setC v).ph1 = s.ph1 := rfl
@[simp] theorem setC_ph2 (v : Word 5) : (s.setC v).ph2 = s.ph2 := rfl
@[simp] theorem setC_status (v : Word 5) : (s.setC v).status = s.status := rfl
@[simp] theorem setC_fram (v : Word 5) : (s.setC v).fram = s.fram := rfl
@[simp] theorem setC_drum (v : Word 5) : (s.setC v).drum = s.drum := rfl
@[simp] theorem setC_freeCount (v : Word 5) : (s.setC v).freeCount = s.freeCount := rfl

/-! ### setW -/

@[simp] theorem setW_K (v : Trit) : (s.setW v).K = s.K := rfl
@[simp] theorem setW_F (v : Trit) : (s.setW v).F = s.F := rfl
@[simp] theorem setW_C (v : Trit) : (s.setW v).C = s.C := rfl
@[simp] theorem setW_W (v : Trit) : (s.setW v).W = v := rfl
@[simp] theorem setW_S (v : Trit) : (s.setW v).S = s.S := rfl
@[simp] theorem setW_R (v : Trit) : (s.setW v).R = s.R := rfl
@[simp] theorem setW_MB (v : Trit) : (s.setW v).MB = s.MB := rfl
@[simp] theorem setW_MR (v : Trit) : (s.setW v).MR = s.MR := rfl
@[simp] theorem setW_ph1 (v : Trit) : (s.setW v).ph1 = s.ph1 := rfl
@[simp] theorem setW_ph2 (v : Trit) : (s.setW v).ph2 = s.ph2 := rfl
@[simp] theorem setW_status (v : Trit) : (s.setW v).status = s.status := rfl
@[simp] theorem setW_fram (v : Trit) : (s.setW v).fram = s.fram := rfl
@[simp] theorem setW_drum (v : Trit) : (s.setW v).drum = s.drum := rfl
@[simp] theorem setW_freeCount (v : Trit) : (s.setW v).freeCount = s.freeCount := rfl

/-! ### setS -/

@[simp] theorem setS_K (v : Word 18) : (s.setS v).K = s.K := rfl
@[simp] theorem setS_F (v : Word 18) : (s.setS v).F = s.F := rfl
@[simp] theorem setS_C (v : Word 18) : (s.setS v).C = s.C := rfl
@[simp] theorem setS_W (v : Word 18) : (s.setS v).W = s.W := rfl
@[simp] theorem setS_S (v : Word 18) : (s.setS v).S = v := rfl
@[simp] theorem setS_R (v : Word 18) : (s.setS v).R = s.R := rfl
@[simp] theorem setS_MB (v : Word 18) : (s.setS v).MB = s.MB := rfl
@[simp] theorem setS_MR (v : Word 18) : (s.setS v).MR = s.MR := rfl
@[simp] theorem setS_ph1 (v : Word 18) : (s.setS v).ph1 = s.ph1 := rfl
@[simp] theorem setS_ph2 (v : Word 18) : (s.setS v).ph2 = s.ph2 := rfl
@[simp] theorem setS_status (v : Word 18) : (s.setS v).status = s.status := rfl
@[simp] theorem setS_fram (v : Word 18) : (s.setS v).fram = s.fram := rfl
@[simp] theorem setS_drum (v : Word 18) : (s.setS v).drum = s.drum := rfl
@[simp] theorem setS_freeCount (v : Word 18) : (s.setS v).freeCount = s.freeCount := rfl

/-! ### setR -/

@[simp] theorem setR_K (v : Word 18) : (s.setR v).K = s.K := rfl
@[simp] theorem setR_F (v : Word 18) : (s.setR v).F = s.F := rfl
@[simp] theorem setR_C (v : Word 18) : (s.setR v).C = s.C := rfl
@[simp] theorem setR_W (v : Word 18) : (s.setR v).W = s.W := rfl
@[simp] theorem setR_S (v : Word 18) : (s.setR v).S = s.S := rfl
@[simp] theorem setR_R (v : Word 18) : (s.setR v).R = v := rfl
@[simp] theorem setR_MB (v : Word 18) : (s.setR v).MB = s.MB := rfl
@[simp] theorem setR_MR (v : Word 18) : (s.setR v).MR = s.MR := rfl
@[simp] theorem setR_ph1 (v : Word 18) : (s.setR v).ph1 = s.ph1 := rfl
@[simp] theorem setR_ph2 (v : Word 18) : (s.setR v).ph2 = s.ph2 := rfl
@[simp] theorem setR_status (v : Word 18) : (s.setR v).status = s.status := rfl
@[simp] theorem setR_fram (v : Word 18) : (s.setR v).fram = s.fram := rfl
@[simp] theorem setR_drum (v : Word 18) : (s.setR v).drum = s.drum := rfl
@[simp] theorem setR_freeCount (v : Word 18) : (s.setR v).freeCount = s.freeCount := rfl

/-! ### setMB -/

@[simp] theorem setMB_K (v : Word 4) : (s.setMB v).K = s.K := rfl
@[simp] theorem setMB_F (v : Word 4) : (s.setMB v).F = s.F := rfl
@[simp] theorem setMB_C (v : Word 4) : (s.setMB v).C = s.C := rfl
@[simp] theorem setMB_W (v : Word 4) : (s.setMB v).W = s.W := rfl
@[simp] theorem setMB_S (v : Word 4) : (s.setMB v).S = s.S := rfl
@[simp] theorem setMB_R (v : Word 4) : (s.setMB v).R = s.R := rfl
@[simp] theorem setMB_MB (v : Word 4) : (s.setMB v).MB = v := rfl
@[simp] theorem setMB_MR (v : Word 4) : (s.setMB v).MR = s.MR := rfl
@[simp] theorem setMB_ph1 (v : Word 4) : (s.setMB v).ph1 = s.ph1 := rfl
@[simp] theorem setMB_ph2 (v : Word 4) : (s.setMB v).ph2 = s.ph2 := rfl
@[simp] theorem setMB_status (v : Word 4) : (s.setMB v).status = s.status := rfl
@[simp] theorem setMB_fram (v : Word 4) : (s.setMB v).fram = s.fram := rfl
@[simp] theorem setMB_drum (v : Word 4) : (s.setMB v).drum = s.drum := rfl
@[simp] theorem setMB_freeCount (v : Word 4) : (s.setMB v).freeCount = s.freeCount := rfl

/-! ### setStatus -/

@[simp] theorem setStatus_K (v : Status) : (s.setStatus v).K = s.K := rfl
@[simp] theorem setStatus_F (v : Status) : (s.setStatus v).F = s.F := rfl
@[simp] theorem setStatus_C (v : Status) : (s.setStatus v).C = s.C := rfl
@[simp] theorem setStatus_W (v : Status) : (s.setStatus v).W = s.W := rfl
@[simp] theorem setStatus_S (v : Status) : (s.setStatus v).S = s.S := rfl
@[simp] theorem setStatus_R (v : Status) : (s.setStatus v).R = s.R := rfl
@[simp] theorem setStatus_MB (v : Status) : (s.setStatus v).MB = s.MB := rfl
@[simp] theorem setStatus_MR (v : Status) : (s.setStatus v).MR = s.MR := rfl
@[simp] theorem setStatus_ph1 (v : Status) : (s.setStatus v).ph1 = s.ph1 := rfl
@[simp] theorem setStatus_ph2 (v : Status) : (s.setStatus v).ph2 = s.ph2 := rfl
@[simp] theorem setStatus_status (v : Status) : (s.setStatus v).status = v := rfl
@[simp] theorem setStatus_fram (v : Status) : (s.setStatus v).fram = s.fram := rfl
@[simp] theorem setStatus_drum (v : Status) : (s.setStatus v).drum = s.drum := rfl
@[simp] theorem setStatus_freeCount (v : Status) : (s.setStatus v).freeCount = s.freeCount := rfl

/-! ### setFram -/

@[simp] theorem setFram_K (v : Memory) : (s.setFram v).K = s.K := rfl
@[simp] theorem setFram_F (v : Memory) : (s.setFram v).F = s.F := rfl
@[simp] theorem setFram_C (v : Memory) : (s.setFram v).C = s.C := rfl
@[simp] theorem setFram_W (v : Memory) : (s.setFram v).W = s.W := rfl
@[simp] theorem setFram_S (v : Memory) : (s.setFram v).S = s.S := rfl
@[simp] theorem setFram_R (v : Memory) : (s.setFram v).R = s.R := rfl
@[simp] theorem setFram_MB (v : Memory) : (s.setFram v).MB = s.MB := rfl
@[simp] theorem setFram_MR (v : Memory) : (s.setFram v).MR = s.MR := rfl
@[simp] theorem setFram_ph1 (v : Memory) : (s.setFram v).ph1 = s.ph1 := rfl
@[simp] theorem setFram_ph2 (v : Memory) : (s.setFram v).ph2 = s.ph2 := rfl
@[simp] theorem setFram_status (v : Memory) : (s.setFram v).status = s.status := rfl
@[simp] theorem setFram_fram (v : Memory) : (s.setFram v).fram = v := rfl
@[simp] theorem setFram_drum (v : Memory) : (s.setFram v).drum = s.drum := rfl
@[simp] theorem setFram_freeCount (v : Memory) : (s.setFram v).freeCount = s.freeCount := rfl

/-! ### setDrum -/

@[simp] theorem setDrum_K (v : Memory) : (s.setDrum v).K = s.K := rfl
@[simp] theorem setDrum_F (v : Memory) : (s.setDrum v).F = s.F := rfl
@[simp] theorem setDrum_C (v : Memory) : (s.setDrum v).C = s.C := rfl
@[simp] theorem setDrum_W (v : Memory) : (s.setDrum v).W = s.W := rfl
@[simp] theorem setDrum_S (v : Memory) : (s.setDrum v).S = s.S := rfl
@[simp] theorem setDrum_R (v : Memory) : (s.setDrum v).R = s.R := rfl
@[simp] theorem setDrum_MB (v : Memory) : (s.setDrum v).MB = s.MB := rfl
@[simp] theorem setDrum_MR (v : Memory) : (s.setDrum v).MR = s.MR := rfl
@[simp] theorem setDrum_ph1 (v : Memory) : (s.setDrum v).ph1 = s.ph1 := rfl
@[simp] theorem setDrum_ph2 (v : Memory) : (s.setDrum v).ph2 = s.ph2 := rfl
@[simp] theorem setDrum_status (v : Memory) : (s.setDrum v).status = s.status := rfl
@[simp] theorem setDrum_fram (v : Memory) : (s.setDrum v).fram = s.fram := rfl
@[simp] theorem setDrum_drum (v : Memory) : (s.setDrum v).drum = v := rfl
@[simp] theorem setDrum_freeCount (v : Memory) : (s.setDrum v).freeCount = s.freeCount := rfl

/-! ### freeScratchMR -/

@[simp] theorem freeScratchMR_K : s.freeScratchMR.K = s.K := rfl
@[simp] theorem freeScratchMR_F : s.freeScratchMR.F = s.F := rfl
@[simp] theorem freeScratchMR_C : s.freeScratchMR.C = s.C := rfl
@[simp] theorem freeScratchMR_W : s.freeScratchMR.W = s.W := rfl
@[simp] theorem freeScratchMR_S : s.freeScratchMR.S = s.S := rfl
@[simp] theorem freeScratchMR_R : s.freeScratchMR.R = s.R := rfl
@[simp] theorem freeScratchMR_MB : s.freeScratchMR.MB = s.MB := rfl
@[simp] theorem freeScratchMR_MR : s.freeScratchMR.MR = freeMR s.freeCount := rfl
@[simp] theorem freeScratchMR_ph1 : s.freeScratchMR.ph1 = s.ph1 := rfl
@[simp] theorem freeScratchMR_ph2 : s.freeScratchMR.ph2 = s.ph2 := rfl
@[simp] theorem freeScratchMR_status : s.freeScratchMR.status = s.status := rfl
@[simp] theorem freeScratchMR_fram : s.freeScratchMR.fram = s.fram := rfl
@[simp] theorem freeScratchMR_drum : s.freeScratchMR.drum = s.drum := rfl
@[simp] theorem freeScratchMR_freeCount : s.freeScratchMR.freeCount = s.freeCount + 1 := rfl

/-! ### freePhases -/

@[simp] theorem freePhases_K : s.freePhases.K = s.K := rfl
@[simp] theorem freePhases_F : s.freePhases.F = s.F := rfl
@[simp] theorem freePhases_C : s.freePhases.C = s.C := rfl
@[simp] theorem freePhases_W : s.freePhases.W = s.W := rfl
@[simp] theorem freePhases_S : s.freePhases.S = s.S := rfl
@[simp] theorem freePhases_R : s.freePhases.R = s.R := rfl
@[simp] theorem freePhases_MB : s.freePhases.MB = s.MB := rfl
@[simp] theorem freePhases_MR : s.freePhases.MR = s.MR := rfl
@[simp] theorem freePhases_ph1 : s.freePhases.ph1 = Config.ph1After s.freeCount := rfl
@[simp] theorem freePhases_ph2 : s.freePhases.ph2 = Config.ph2After s.freeCount := rfl
@[simp] theorem freePhases_status : s.freePhases.status = s.status := rfl
@[simp] theorem freePhases_fram : s.freePhases.fram = s.fram := rfl
@[simp] theorem freePhases_drum : s.freePhases.drum = s.drum := rfl
@[simp] theorem freePhases_freeCount : s.freePhases.freeCount = s.freeCount + 1 := rfl

/-! ### setSAndW -/

@[simp] theorem setSAndW_K (v : Word 18) : (s.setSAndW v).K = s.K := rfl
@[simp] theorem setSAndW_F (v : Word 18) : (s.setSAndW v).F = s.F := rfl
@[simp] theorem setSAndW_C (v : Word 18) : (s.setSAndW v).C = s.C := rfl
@[simp] theorem setSAndW_W (v : Word 18) : (s.setSAndW v).W = v.sgn := rfl
@[simp] theorem setSAndW_S (v : Word 18) : (s.setSAndW v).S = v := rfl
@[simp] theorem setSAndW_R (v : Word 18) : (s.setSAndW v).R = s.R := rfl
@[simp] theorem setSAndW_MB (v : Word 18) : (s.setSAndW v).MB = s.MB := rfl
@[simp] theorem setSAndW_MR (v : Word 18) : (s.setSAndW v).MR = s.MR := rfl
@[simp] theorem setSAndW_ph1 (v : Word 18) : (s.setSAndW v).ph1 = s.ph1 := rfl
@[simp] theorem setSAndW_ph2 (v : Word 18) : (s.setSAndW v).ph2 = s.ph2 := rfl
@[simp] theorem setSAndW_status (v : Word 18) : (s.setSAndW v).status = s.status := rfl
@[simp] theorem setSAndW_fram (v : Word 18) : (s.setSAndW v).fram = s.fram := rfl
@[simp] theorem setSAndW_drum (v : Word 18) : (s.setSAndW v).drum = s.drum := rfl
@[simp] theorem setSAndW_freeCount (v : Word 18) : (s.setSAndW v).freeCount = s.freeCount := rfl

/-! ### setFAndW -/

@[simp] theorem setFAndW_K (v : Word 5) : (s.setFAndW v).K = s.K := rfl
@[simp] theorem setFAndW_F (v : Word 5) : (s.setFAndW v).F = v := rfl
@[simp] theorem setFAndW_C (v : Word 5) : (s.setFAndW v).C = s.C := rfl
@[simp] theorem setFAndW_W (v : Word 5) : (s.setFAndW v).W = v.sgn := rfl
@[simp] theorem setFAndW_S (v : Word 5) : (s.setFAndW v).S = s.S := rfl
@[simp] theorem setFAndW_R (v : Word 5) : (s.setFAndW v).R = s.R := rfl
@[simp] theorem setFAndW_MB (v : Word 5) : (s.setFAndW v).MB = s.MB := rfl
@[simp] theorem setFAndW_MR (v : Word 5) : (s.setFAndW v).MR = s.MR := rfl
@[simp] theorem setFAndW_ph1 (v : Word 5) : (s.setFAndW v).ph1 = s.ph1 := rfl
@[simp] theorem setFAndW_ph2 (v : Word 5) : (s.setFAndW v).ph2 = s.ph2 := rfl
@[simp] theorem setFAndW_status (v : Word 5) : (s.setFAndW v).status = s.status := rfl
@[simp] theorem setFAndW_fram (v : Word 5) : (s.setFAndW v).fram = s.fram := rfl
@[simp] theorem setFAndW_drum (v : Word 5) : (s.setFAndW v).drum = s.drum := rfl
@[simp] theorem setFAndW_freeCount (v : Word 5) : (s.setFAndW v).freeCount = s.freeCount := rfl

/-! ### fetched -/

@[simp] theorem fetched_K (v : Word 9) : (s.fetched v).K = v := rfl
@[simp] theorem fetched_F (v : Word 9) : (s.fetched v).F = s.F := rfl
@[simp] theorem fetched_C (v : Word 9) : (s.fetched v).C = s.C := rfl
@[simp] theorem fetched_W (v : Word 9) : (s.fetched v).W = s.W := rfl
@[simp] theorem fetched_S (v : Word 9) : (s.fetched v).S = s.S := rfl
@[simp] theorem fetched_R (v : Word 9) : (s.fetched v).R = s.R := rfl
@[simp] theorem fetched_MB (v : Word 9) : (s.fetched v).MB = s.MB := rfl
@[simp] theorem fetched_MR (v : Word 9) : (s.fetched v).MR = freeMR s.freeCount := rfl
@[simp] theorem fetched_ph1 (v : Word 9) : (s.fetched v).ph1 = s.ph1 := rfl
@[simp] theorem fetched_ph2 (v : Word 9) : (s.fetched v).ph2 = s.ph2 := rfl
@[simp] theorem fetched_status (v : Word 9) : (s.fetched v).status = s.status := rfl
@[simp] theorem fetched_fram (v : Word 9) : (s.fetched v).fram = s.fram := rfl
@[simp] theorem fetched_drum (v : Word 9) : (s.fetched v).drum = s.drum := rfl
@[simp] theorem fetched_freeCount (v : Word 9) : (s.fetched v).freeCount = s.freeCount + 1 := rfl

end Sys2Proof.Machine.State
end

