-- ==== Sys2Proof/Laws/Ops.lean ====
section
/-! SUPPORT. For each shared operation, one lemma that says once everything it can do. -/

namespace Sys2Proof.Machine

/-! ### FRAM access -/

theorem isLong_iff (a : Word 5) : isLong a = true ↔ a.get 5 = .neg := by simp [isLong]

/-- What FramLoad delivers when it delivers (20_memory.md R78). -/
theorem framLoad_ok {fram : Memory} {a : Word 5} {M : RawWord} :
    framLoad fram a = .ok M ↔
      (a.get 5 = .neg ∧ row a ≠ 80 ∧ M = .long (Word.long (framRow fram 0 (row a)) (framRow fram 0 (row a + 1)))) ∨
      (a.get 5 ≠ .neg ∧ M = .short (framRow fram (page a) (row a))) := by
  unfold framLoad
  by_cases h : a.get 5 = .neg
  · by_cases hr : row a = 80 <;> simp [isLong, h, hr, eq_comm]
  · simp [isLong, h, eq_comm]

theorem framLoad_error {fram : Memory} {a : Word 5} {e : Refusal} :
    framLoad fram a = .error e ↔ a.get 5 = .neg ∧ row a = 80 ∧ e = .longAccessRow80 := by
  unfold framLoad
  by_cases h : a.get 5 = .neg
  · by_cases hr : row a = 80 <;> simp [isLong, h, hr, eq_comm]
  · simp [isLong, h]

/-- An accessible address always delivers an operand. -/
theorem framLoad_of_accessible {fram : Memory} {a : Word 5} (h : accessible a) : ∃ M, framLoad fram a = .ok M := by
  cases hf : framLoad fram a with
  | ok M => exact ⟨M, rfl⟩
  | error e => exact absurd (framLoad_error.mp hf).2.1 (h (framLoad_error.mp hf).1)

/-- What FramStore writes when it writes (20_memory.md R81). -/
theorem framStore_ok {L : Nat} {fram fram' : Memory} {a : Word 5} {v : Word L} :
    framStore fram a v = .ok fram' ↔
      (a.get 5 = .neg ∧ row a ≠ 80 ∧
        fram' = setFramRow (setFramRow fram 0 (row a) ((v.resize 18).slice 1 9)) 0 (row a + 1)
          ((v.resize 18).slice 10 9)) ∨
      (a.get 5 ≠ .neg ∧ fram' = setFramRow fram (page a) (row a) (v.resize 9)) := by
  unfold framStore
  by_cases h : a.get 5 = .neg
  · by_cases hr : row a = 80 <;> simp [isLong, h, hr, eq_comm]
  · simp [isLong, h, eq_comm]

theorem framStore_error {L : Nat} {fram : Memory} {a : Word 5} {v : Word L} {e : Refusal} :
    framStore fram a v = .error e ↔ a.get 5 = .neg ∧ row a = 80 ∧ e = .longAccessRow80 := by
  unfold framStore
  by_cases h : a.get 5 = .neg
  · by_cases hr : row a = 80 <;> simp [isLong, h, hr, eq_comm]
  · simp [isLong, h]

theorem framStore_of_accessible {L : Nat} {fram : Memory} {a : Word 5} {v : Word L} (h : accessible a) :
    ∃ fram', framStore fram a v = .ok fram' := by
  cases hf : framStore fram a v with
  | ok m => exact ⟨m, rfl⟩
  | error e => exact absurd (framStore_error.mp hf).2.1 (h (framStore_error.mp hf).1)

/-! ### Outcomes of an arm -/

/-- `orRefuse` answers a next state only from an access that succeeded (41_cycle.md R208). -/
theorem orRefuse_next {α : Type} {r : Except Refusal α} {k : α → StepOutcome State} {t : State} :
    orRefuse r k = .next t ↔ ∃ v, r = .ok v ∧ k v = .next t := by
  cases r <;> simp [orRefuse]

/-- `orRefuse` faults only where what follows the access does. -/
theorem orRefuse_fault {α : Type} {r : Except Refusal α} {k : α → StepOutcome State} {f : Fault} :
    orRefuse r k = .fault f ↔ ∃ v, r = .ok v ∧ k v = .fault f := by
  cases r <;> simp [orRefuse]

theorem orRefuse_ok {α : Type} {r : Except Refusal α} {k : α → StepOutcome State} {v : α} (h : r = .ok v) :
    orRefuse r k = k v := by rw [h]; rfl

theorem withOperand_ok {a : Word 5} {m : Trit} {s : State} {k : RawWord → StepOutcome State} {M : RawWord}
    (h : framLoad s.fram (s.ea a m) = .ok M) : withOperand a m s k = k M := orRefuse_ok h

theorem withOperand_next {a : Word 5} {m : Trit} {s t : State} {k : RawWord → StepOutcome State} :
    withOperand a m s k = .next t ↔ ∃ M, framLoad s.fram (s.ea a m) = .ok M ∧ k M = .next t := orRefuse_next

theorem storeAndThen_ok {L : Nat} {a : Word 5} {v : Word L} {s : State} {k : State → StepOutcome State}
    {fram : Memory} (h : framStore s.fram a v = .ok fram) : storeAndThen a v s k = k (s.setFram fram) :=
  orRefuse_ok h

theorem storeAndThen_next {L : Nat} {a : Word 5} {v : Word L} {s t : State} {k : State → StepOutcome State} :
    storeAndThen a v s k = .next t ↔ ∃ fram, framStore s.fram a v = .ok fram ∧ k (s.setFram fram) = .next t :=
  orRefuse_next

theorem continueStep_next {s t : State} : continueStep s = .next t ↔ t = s.setC (nextAddress s.C) := by
  simp [continueStep, eq_comm]

theorem jumpTo_next {target : Word 5} {s t : State} : jumpTo target s = .next t ↔ t = s.setC target := by
  simp [jumpTo, eq_comm]

theorem stopWith_next {st : Status} {s t : State} : stopWith st s = .next t ↔ t = s.setStatus st := by
  simp [stopWith, eq_comm]

theorem branchIf_next {c : Bool} {a : Word 5} {m : Trit} {s t : State} :
    branchIf c a m s = .next t ↔
      (c = true ∧ t = s.setC (s.ea a m)) ∨ (c = false ∧ t = s.setC (nextAddress s.C)) := by
  cases c <;> simp [branchIf, jumpTo_next, continueStep_next]

/-- The two ends of an overflow-checked arm (41_cycle.md R217). -/
theorem accumulate_next {x : Int} {s t : State} :
    accumulate x s = .next t ↔
      (overflow x = true ∧ t = (s.freePhases.setS (Word.ofInt 18 x)).setStatus .stopOver) ∨
      (overflow x = false ∧
        t = (s.freePhases.setSAndW (Word.ofInt 18 x)).setC (nextAddress s.C)) := by
  unfold accumulate
  cases h : overflow x <;> simp [stopWith_next, continueStep_next]

/-- What an overflow-checked arm's end never touches. -/
theorem accumulate_frame {x : Int} {s t : State} (h : accumulate x s = .next t) :
    t.K = s.K ∧ t.F = s.F ∧ t.R = s.R ∧ t.MB = s.MB ∧ t.MR = s.MR ∧ t.fram = s.fram ∧ t.drum = s.drum := by
  rcases accumulate_next.mp h with ⟨-, rfl⟩ | ⟨-, rfl⟩ <;> simp

/-- States with the memories of a canonical state are canonical. -/
theorem canonical_of_eq {s t : State} (h : s.canonical) (hf : t.fram = s.fram) (hd : t.drum = s.drum) :
    t.canonical := by
  unfold State.canonical; rw [hf, hd]; exact h

/-! ### The step -/

theorem fetchWord_ok {s : State} {w : Word 9} :
    fetchWord s = .ok w ↔ s.C.get 5 ≠ .neg ∧ w = framRow s.fram (page s.C) (row s.C) := by
  unfold fetchWord
  by_cases h : s.C.get 5 = .neg <;> simp [h, eq_comm]

theorem accumulate_ne_fault (x : Int) (s : State) (f : Fault) : accumulate x s ≠ .fault f := by
  unfold accumulate stopWith continueStep
  split <;> simp

/-- No instruction faults: the machine has no traps (60_exceptions.md R360). -/
theorem exec_ne_fault (i : Instr) (s : State) (f : Fault) : exec i s ≠ .fault f := by
  cases i <;>
    simp [exec, execMula, execMul, execMulb, execAdd, execLds, execSub, execLdr, execXor, execHlt, execBp, execBz, execBn,
      execStc, execJmp, execStf, execLfc, execLdf, execAdf, execSts, execShf, execNrm, execF2d, execIo, execD2f,
      execRsv11, execRsv12, execRsv13, withOperand, storeAndThen, orRefuse_fault, accumulate_ne_fault, continueStep,
      stopWith, jumpTo, branchIf] <;>
    split <;> simp

/-- A step faults exactly in a stopped state (41_cycle.md R200). -/
theorem step_fault {s : State} {f : Fault} : step s = .fault f ↔ s.status ≠ .running ∧ f = .stopped s.status := by
  unfold step
  by_cases h : s.status = .running
  · cases hf : fetchWord s <;> simp [h, exec_ne_fault]
  · simp [h, eq_comm]

/-- A step that answers a next state ran the decoded instruction from a RUNNING state (41_cycle.md R200). -/
theorem step_next {s t : State} :
    step s = .next t ↔
      s.status = .running ∧ ∃ w, fetchWord s = .ok w ∧ exec (decode w) (s.fetched w) = .next t := by
  unfold step
  by_cases h : s.status = .running
  · cases hf : fetchWord s <;> simp [h]
  · simp [h]

end Sys2Proof.Machine
end

