-- ==== Sys2Proof/Laws/Observable.lean ====
section
/-! SUPPORT. The shared operations answer alike from states a program cannot tell apart: each answer depends on the
observable fields alone. -/

namespace Sys2Proof.Machine

/-- Two states alike in every observable and in K. -/
abbrev alike (s t : State) : Prop := sameObservable s t ∧ s.K = t.K

theorem alike.ea {s t : State} (h : alike s t) (a : Word 5) (m : Trit) : s.ea a m = t.ea a m := by
  unfold State.ea; rw [h.1.1]

theorem alike.setC {s t : State} (h : alike s t) (v : Word 5) : alike (s.setC v) (t.setC v) := by
  simp_all [alike, sameObservable]

theorem alike.setW {s t : State} (h : alike s t) (v : Trit) : alike (s.setW v) (t.setW v) := by
  simp_all [alike, sameObservable]

theorem alike.setS {s t : State} (h : alike s t) (v : Word 18) : alike (s.setS v) (t.setS v) := by
  simp_all [alike, sameObservable]

theorem alike.setR {s t : State} (h : alike s t) (v : Word 18) : alike (s.setR v) (t.setR v) := by
  simp_all [alike, sameObservable]

theorem alike.setF {s t : State} (h : alike s t) (v : Word 5) : alike (s.setF v) (t.setF v) := by
  simp_all [alike, sameObservable]

theorem alike.setMB {s t : State} (h : alike s t) (v : Word 4) : alike (s.setMB v) (t.setMB v) := by
  simp_all [alike, sameObservable]

theorem alike.setStatus {s t : State} (h : alike s t) (v : Status) : alike (s.setStatus v) (t.setStatus v) := by
  simp_all [alike, sameObservable]

theorem alike.setFram {s t : State} (h : alike s t) (v : Memory) : alike (s.setFram v) (t.setFram v) := by
  simp_all [alike, sameObservable]

theorem alike.setDrum {s t : State} (h : alike s t) (v : Memory) : alike (s.setDrum v) (t.setDrum v) := by
  simp_all [alike, sameObservable]

theorem alike.setSAndW {s t : State} (h : alike s t) (v : Word 18) : alike (s.setSAndW v) (t.setSAndW v) :=
  (h.setS v).setW v.sgn

theorem alike.setFAndW {s t : State} (h : alike s t) (v : Word 5) : alike (s.setFAndW v) (t.setFAndW v) :=
  (h.setF v).setW v.sgn

theorem alike.freePhases {s t : State} (h : alike s t) : alike s.freePhases t.freePhases := by
  simp_all [alike, sameObservable]

/-- Fetching the same word makes observably equal states alike, whatever K, MB, MR, ph1 and ph2 held. -/
theorem alike_fetched {s t : State} (h : sameObservable s t) (w : Word 9) : alike (s.fetched w) (t.fetched w) := by
  simp_all [alike, sameObservable]

theorem alike.sameAnswer {s t : State} (h : alike s t) : sameAnswer (.next s) (.next t) := .next h.1 h.2

theorem sameAnswer_continueStep {s t : State} (h : alike s t) : sameAnswer (continueStep s) (continueStep t) := by
  unfold continueStep
  rw [h.1.2.1]
  exact (h.setC _).sameAnswer

theorem sameAnswer_jumpTo {s t : State} (h : alike s t) (v : Word 5) : sameAnswer (jumpTo v s) (jumpTo v t) :=
  (h.setC v).sameAnswer

theorem sameAnswer_stopWith {s t : State} (h : alike s t) (st : Status) :
    sameAnswer (stopWith st s) (stopWith st t) := (h.setStatus st).sameAnswer

theorem sameAnswer_branchIf {s t : State} (h : alike s t) (c : Bool) (a : Word 5) (m : Trit) :
    sameAnswer (branchIf c a m s) (branchIf c a m t) := by
  unfold branchIf
  split
  · rw [h.ea]; exact sameAnswer_jumpTo h _
  · exact sameAnswer_continueStep h

theorem sameAnswer_accumulate {s t : State} (h : alike s t) (x : Int) :
    sameAnswer (accumulate x s) (accumulate x t) := by
  unfold accumulate
  split
  · exact sameAnswer_stopWith (h.freePhases.setS _) _
  · exact sameAnswer_continueStep (h.freePhases.setSAndW _)

theorem sameAnswer_withOperand {s t : State} (h : alike s t) (a : Word 5) (m : Trit)
    {k k' : RawWord → StepOutcome State} (hk : ∀ M, sameAnswer (k M) (k' M)) :
    sameAnswer (withOperand a m s k) (withOperand a m t k') := by
  unfold withOperand
  rw [h.ea, h.1.2.2.2.2.2.2.1]
  cases framLoad t.fram (t.ea a m) with
  | ok M => exact hk M
  | error e => exact .refused e

theorem sameAnswer_storeAndThen {L : Nat} {s t : State} (h : alike s t) (a : Word 5) (v : Word L)
    {k k' : State → StepOutcome State} (hk : ∀ s t, alike s t → sameAnswer (k s) (k' t)) :
    sameAnswer (storeAndThen a v s k) (storeAndThen a v t k') := by
  unfold storeAndThen
  rw [h.1.2.2.2.2.2.2.1]
  cases framStore t.fram a v with
  | ok fram => exact hk _ _ (h.setFram fram)
  | error e => exact .refused e

end Sys2Proof.Machine
end

