-- ==== Sys2Proof/Laws/PerInstr.lean ====
section
/-! SUPPORT. Statements about every instruction as syntax, one lemma for each constructor. -/

namespace Sys2Proof.Laws

/-- The encoded word of an instruction holds its address in positions 1-5, its opcode pattern in 6-8 and its
modification trit in 9 (30_encoding.md R111). -/
def EncodedFields.Statement (i : Instr) : Prop :=
  (encode i).slice 1 5 = i.address ∧
    ((encode i).get 6, (encode i).get 7, (encode i).get 8) = i.opcode ∧ (encode i).get 9 = i.modifier

theorem encode_get_tail (i : Instr) (k : Int) (h : 5 < k) :
    (encode i).get k = (⟨[i.opcode.1, i.opcode.2.1, i.opcode.2.2, i.modifier], rfl⟩ : Word 4).get (k - 5) := by
  have := Word.get_append i.address ⟨[i.opcode.1, i.opcode.2.1, i.opcode.2.2, i.modifier], rfl⟩ k
  rw [if_neg (by omega)] at this
  exact this

theorem encodedFields (i : Instr) : EncodedFields.Statement i := by
  refine ⟨Word.slice_append_left i.address _, ?_, ?_⟩
  · rw [encode_get_tail i 6 (by decide), encode_get_tail i 7 (by decide), encode_get_tail i 8 (by decide)]
    rfl
  · rw [encode_get_tail i 9 (by decide)]
    rfl

theorem EncodedFields.mula (a : Word 5) (m : Trit) : EncodedFields.Statement (.mula a m) := encodedFields _
theorem EncodedFields.mul (a : Word 5) (m : Trit) : EncodedFields.Statement (.mul a m) := encodedFields _
theorem EncodedFields.mulb (a : Word 5) (m : Trit) : EncodedFields.Statement (.mulb a m) := encodedFields _
theorem EncodedFields.add (a : Word 5) (m : Trit) : EncodedFields.Statement (.add a m) := encodedFields _
theorem EncodedFields.lds (a : Word 5) (m : Trit) : EncodedFields.Statement (.lds a m) := encodedFields _
theorem EncodedFields.sub (a : Word 5) (m : Trit) : EncodedFields.Statement (.sub a m) := encodedFields _
theorem EncodedFields.ldr (a : Word 5) (m : Trit) : EncodedFields.Statement (.ldr a m) := encodedFields _
theorem EncodedFields.xor (a : Word 5) (m : Trit) : EncodedFields.Statement (.xor a m) := encodedFields _
theorem EncodedFields.hlt (a : Word 5) (m : Trit) : EncodedFields.Statement (.hlt a m) := encodedFields _
theorem EncodedFields.bp (a : Word 5) (m : Trit) : EncodedFields.Statement (.bp a m) := encodedFields _
theorem EncodedFields.bz (a : Word 5) (m : Trit) : EncodedFields.Statement (.bz a m) := encodedFields _
theorem EncodedFields.bn (a : Word 5) (m : Trit) : EncodedFields.Statement (.bn a m) := encodedFields _
theorem EncodedFields.stc (a : Word 5) (m : Trit) : EncodedFields.Statement (.stc a m) := encodedFields _
theorem EncodedFields.jmp (a : Word 5) (m : Trit) : EncodedFields.Statement (.jmp a m) := encodedFields _
theorem EncodedFields.stf (a : Word 5) (m : Trit) : EncodedFields.Statement (.stf a m) := encodedFields _
theorem EncodedFields.lfc (a : Word 5) (m : Trit) : EncodedFields.Statement (.lfc a m) := encodedFields _
theorem EncodedFields.ldf (a : Word 5) (m : Trit) : EncodedFields.Statement (.ldf a m) := encodedFields _
theorem EncodedFields.adf (a : Word 5) (m : Trit) : EncodedFields.Statement (.adf a m) := encodedFields _
theorem EncodedFields.sts (a : Word 5) (m : Trit) : EncodedFields.Statement (.sts a m) := encodedFields _
theorem EncodedFields.shf (a : Word 5) (m : Trit) : EncodedFields.Statement (.shf a m) := encodedFields _
theorem EncodedFields.nrm (a : Word 5) (m : Trit) : EncodedFields.Statement (.nrm a m) := encodedFields _
theorem EncodedFields.f2d (a : Word 5) (m : Trit) : EncodedFields.Statement (.f2d a m) := encodedFields _
theorem EncodedFields.io (a : Word 5) (m : Trit) : EncodedFields.Statement (.io a m) := encodedFields _
theorem EncodedFields.d2f (a : Word 5) (m : Trit) : EncodedFields.Statement (.d2f a m) := encodedFields _
theorem EncodedFields.rsv11 (a : Word 5) (m : Trit) : EncodedFields.Statement (.rsv11 a m) := encodedFields _
theorem EncodedFields.rsv12 (a : Word 5) (m : Trit) : EncodedFields.Statement (.rsv12 a m) := encodedFields _
theorem EncodedFields.rsv13 (a : Word 5) (m : Trit) : EncodedFields.Statement (.rsv13 a m) := encodedFields _

end Sys2Proof.Laws
end

