-- ==== Sys2Proof/Tests/Slice0.lean ====
section
/-! SUPPORT. Tests. Every expected value is the spec's (95_test_vectors.md, or the rule a comment names), not the
model's answer. The theorems named `witness_…` show that the hypotheses of a statement can be met. -/

open Sys2Proof Sys2Proof.Machine

namespace Sys2Proof.Tests

set_option Elab.async false

/-- The word the symbols stand for, most significant first, zeros after the last. -/
def word (L : Nat) (symbols : String) : Word L :=
  ⟨(symbols.toList.map (fun c => (Trit.ofSymbol c).getD .zero) ++ List.replicate L Trit.zero).take L, by simp⟩

/-- `s` with `w` written at the short address `a`. -/
def put (a w : String) (s : State) : State :=
  match hostStore (word 5 a) (word 9 w) s with
  | .ok t => t
  | .error _ => s

/-- Reset, then C at `c` and the instruction word `k` there. -/
def start (c k : String) : State := put c k (State.reset.setC (word 5 c))

/-- What `f` sees of the state after a step or a meaning, if there is one. -/
def seen {α : Type} (o : StepOutcome State) (f : State → α) : Option α := (nextState? o).map f

theorem exists_next {α : Type} {o : StepOutcome State} {f : State → α} {v : α} (h : seen o f = some v) :
    ∃ t, o = .next t ∧ f t = v := by
  cases o <;> simp_all [seen, nextState?]

/-- The refusal of an outcome, if it is one. -/
def refusal? (o : StepOutcome State) : Option Refusal :=
  match o with
  | .refused r => some r
  | _ => none

/-! ### Ill-formed bits are refused, one for each check of WellFormed -/

theorem test_illformed_bit_beyond_word :
    fitsNineTrits (4 ^ 9) = false ∧ wordOfTableBits (4 ^ 9) = .error .bitsBeyondWord ∧
      decodeTableWord 24 (4 ^ 9) = none := by decide
theorem test_illformed_flag_pair :
    noIllegalPair (2 * 4 ^ 8) = false ∧ wordOfTableBits (2 * 4 ^ 8) = .error .illegalFlagPair ∧
      decodeTableWord 24 2 = none := by decide
theorem test_largest_wellformed : wellFormedBits (4 ^ 9 - 1) = true ∧ wordOfBits (4 ^ 9 - 1) = word 9 "---------" := by
  decide

/-! ### Decoding: the words of 95_test_vectors.md 2.9, one for every constructor -/

theorem test_decode_mula : decode (word 9 "+0000+++0") = .mula (word 5 "+0000") .zero := by decide
theorem test_decode_mul : decode (word 9 "+0000++00") = .mul (word 5 "+0000") .zero := by decide
theorem test_decode_mulb : decode (word 9 "+0000++-0") = .mulb (word 5 "+0000") .zero := by decide
theorem test_decode_add : decode (word 9 "++-00+0++") = .add (word 5 "++-00") .pos := by decide
theorem test_decode_lds : decode (word 9 "+000-+000") = .lds (word 5 "+000-") .zero := by decide
theorem test_decode_sub : decode (word 9 "+0000+0-0") = .sub (word 5 "+0000") .zero := by decide
theorem test_decode_ldr : decode (word 9 "+000-+-+0") = .ldr (word 5 "+000-") .zero := by decide
theorem test_decode_xor : decode (word 9 "+0000+-00") = .xor (word 5 "+0000") .zero := by decide
theorem test_decode_hlt : decode (word 9 "0---0+--0") = .hlt (word 5 "0---0") .zero := by decide
theorem test_decode_bp : decode (word 9 "+-+-+0++0") = .bp (word 5 "+-+-+") .zero := by decide
theorem test_decode_bz : decode (word 9 "+-+-+0+00") = .bz (word 5 "+-+-+") .zero := by decide
theorem test_decode_bn : decode (word 9 "+-+-+0+-0") = .bn (word 5 "+-+-+") .zero := by decide
theorem test_decode_stc : decode (word 9 "+000000+0") = .stc (word 5 "+0000") .zero := by decide
theorem test_decode_jmp : decode (word 9 "+-+-+000-") = .jmp (word 5 "+-+-+") .neg := by decide
theorem test_decode_stf : decode (word 9 "+000-00-0") = .stf (word 5 "+000-") .zero := by decide
theorem test_decode_lfc : decode (word 9 "+00000-+0") = .lfc (word 5 "+0000") .zero := by decide
theorem test_decode_ldf : decode (word 9 "++0-00-00") = .ldf (word 5 "++0-0") .zero := by decide
theorem test_decode_adf : decode (word 9 "++-+00--0") = .adf (word 5 "++-+0") .zero := by decide
theorem test_decode_sts : decode (word 9 "+00+--++0") = .sts (word 5 "+00+-") .zero := by decide
theorem test_decode_shf : decode (word 9 "+0++0-+00") = .shf (word 5 "+0++0") .zero := by decide
theorem test_decode_nrm : decode (word 9 "+00+--+-0") = .nrm (word 5 "+00+-") .zero := by decide
theorem test_decode_f2d : decode (word 9 "------0+0") = .f2d (word 5 "-----") .zero := by decide
theorem test_decode_io : decode (word 9 "+0000-000") = .io (word 5 "+0000") .zero := by decide
theorem test_decode_d2f : decode (word 9 "+0-00-0-0") = .d2f (word 5 "+0-00") .zero := by decide
theorem test_decode_rsv11 : decode (word 9 "+0000--+0") = .rsv11 (word 5 "+0000") .zero := by decide
theorem test_decode_rsv12 : decode (word 9 "+0000--00") = .rsv12 (word 5 "+0000") .zero := by decide
theorem test_decode_rsv13 : decode (word 9 "+0000---0") = .rsv13 (word 5 "+0000") .zero := by decide

/-! ### One step (95_test_vectors.md 2.9; the vector is named) -/

/-- LDS-2 -/
theorem test_lds_long : seen (step (put "+0000" "00000000+" (start "00000" "+000-+000"))) (fun t => (t.S, t.W, t.C)) =
    some (word 18 "00000000+000000000", .pos, word 5 "0000+") := by decide +kernel
/-- The end-to-end scenario of 95_test_vectors.md 1.1 -/
theorem test_lds_scenario : seen (step (put "00000" "+0-0+0-00" (start "0000+" "00000+000")))
    (fun t => (t.S, t.W, t.C)) = some (word 18 "+0-0+0-00000000000", .pos, word 5 "000+0") := by decide +kernel
/-- ADD-2 -/
theorem test_add_limit : seen (step (put "+00+0" "00000000+" ((start "00000" "+000-+0+0").setS
    (word 18 "+++++++++++++++++0")))) (fun t => (t.S, t.W, t.status)) =
    some (word 18 "++++++++++++++++++", .pos, .running) := by decide +kernel
/-- ADD-3 -/
theorem test_add_overflow : seen (step (put "+00+0" "00000000+" (((start "00000" "+000-+0+0").setS
    (word 18 "++++++++++++++++++")).setW .pos))) (fun t => (t.S, t.W, t.C, t.status)) =
    some (word 18 "------------------", .pos, word 5 "00000", .stopOver) := by decide +kernel
/-- SUB-3 -/
theorem test_sub_zero : seen (step (put "+0000" "+-0000000" ((start "00000" "+0000+0-0").setS
    (word 18 "+-0000000000000000")))) (fun t => (t.S, t.W, t.C)) = some (Word.zero 18, .zero, word 5 "0000+") := by
  decide +kernel
/-- SUB-2 -/
theorem test_sub_overflow : seen (step (put "+00+0" "00000000+" (((start "00000" "+000-+0-0").setS
    (word 18 "------------------")).setW .neg))) (fun t => (t.S, t.W, t.status)) =
    some (word 18 "++++++++++++++++++", .neg, .stopOver) := by decide +kernel
/-- XOR-1 -/
theorem test_xor : seen (step (put "+0000" "+++------" ((start "00000" "+0000+-00").setS
    (word 18 "+-0+-0+-0+-0+-0+-0")))) (fun t => (t.S, t.W)) = some (word 18 "-0-0++0++-+0-+0-+0", .neg) := by
  decide +kernel
/-- LDR-1 -/
theorem test_ldr_long : seen (step (put "+00+0" "-00000000" (put "+0000" "+00000000"
    ((start "00000" "+000-+-+0").setW .neg)))) (fun t => (t.R, t.W, t.C)) =
    some (word 18 "+00000000-00000000", .neg, word 5 "0000+") := by decide +kernel
/-- HLT-1 -/
theorem test_hlt_long : seen (step (put "+00+0" "-00000000" (put "+0000" "+00000000" (start "00000" "+000-+--0"))))
    (fun t => (t.R, t.status, t.C)) = some (word 18 "+00000000-00000000", .stopDone, word 5 "00000") := by
  decide +kernel
/-- MUL-1 -/
theorem test_mul : seen (step (put "+0000" "-00000000" ((start "00000" "+0000++00").setS
    (word 18 "-00000000+++++++++")))) (fun t => (t.S, t.R, t.W)) =
    some (word 18 "0+0000000000000000", word 18 "-00000000000000000", .pos) := by decide +kernel
/-- MULA-1 -/
theorem test_mula : seen (step (put "+0000" "0-0000000" (((start "00000" "+0000+++0").setS
    (word 18 "000000000000000+-+")).setR (word 18 "0+0000000000000000")))) (fun t => (t.S, t.W)) =
    some (word 18 "000-00000000000+-+", .neg) := by decide +kernel
/-- MULB-1 -/
theorem test_mulb : seen (step (put "+0000" "00000000+" (((start "00000" "+0000++-0").setS
    (word 18 "0+0000000000000000")).setR (word 18 "0+0000000000000000")))) (fun t => (t.S, t.W)) =
    some (word 18 "000+0000+000000000", .pos) := by decide +kernel
/-- BZ-1, BZ-2 -/
theorem test_bz : seen (step (start "00000" "+-+-+0+00")) State.C = some (word 5 "+-+-+") ∧
    seen (step ((start "00000" "+-+-+0+00").setW .pos)) State.C = some (word 5 "0000+") := by decide +kernel
/-- BP-1, BP-2 -/
theorem test_bp : seen (step ((start "00000" "+-+-+0++0").setW .pos)) State.C = some (word 5 "+-+-+") ∧
    seen (step (start "00000" "+-+-+0++0")) State.C = some (word 5 "0000+") := by decide +kernel
/-- BN-1, BN-2 -/
theorem test_bn : seen (step ((start "00000" "+-+-+0+-0").setW .neg)) State.C = some (word 5 "+-+-+") ∧
    seen (step (start "00000" "+-+-+0+-0")) State.C = some (word 5 "0000+") := by decide +kernel
/-- JMP-2 -/
theorem test_jmp_wraps : seen (step ((start "00000" "+++++000+").setF (word 5 "0000+"))) State.C =
    some (word 5 "-----") := by decide +kernel
/-- JMP-3 -/
theorem test_jmp_minus_f : seen (step ((start "00000" "+0000000-").setF (word 5 "-+0-+"))) State.C =
    some (word 5 "--0+-") := by decide +kernel
/-- STC-1 -/
theorem test_stc_short : seen (step (start "00+-+" "+000000+0")) (fun t => (t.C, framRow t.fram 0 67)) =
    some (word 5 "00+00", word 9 "000000+-+") := by decide +kernel
/-- STC-2, over a row that was not zero before -/
theorem test_stc_long : seen (step (put "+0000" "+++++++++" (start "00+-+" "+000-00+0")))
    (fun t => (framRow t.fram 0 67, framRow t.fram 0 68)) = some (Word.zero 9, word 9 "000000+-+") := by decide +kernel
/-- STF-1 -/
theorem test_stf_short : seen (step ((start "00000" "+000000-0").setF (word 5 "-+0-+")))
    (fun t => (t.W, framRow t.fram 0 67)) = some (.neg, word 9 "0000-+0-+") := by decide +kernel
/-- STF-2 -/
theorem test_stf_long : seen (step ((start "00000" "+000-00-0").setF (word 5 "-+0-+")))
    (fun t => (t.W, framRow t.fram 0 68)) = some (.neg, word 9 "0000-+0-+") := by decide +kernel
/-- LDF-1 -/
theorem test_ldf_long : seen (step (put "+00+0" "++++0+-0-" (put "+0000" "+++++++++" (start "00000" "+000-0-00"))))
    (fun t => (t.F, t.W)) = some (word 5 "0+-0-", .pos) := by decide +kernel
/-- LDF-2 -/
theorem test_ldf_short : seen (step (put "+0000" "+++++0000" (start "00000" "+00000-00"))) (fun t => (t.F, t.W)) =
    some (word 5 "+0000", .pos) := by decide +kernel
/-- LFC-1 -/
theorem test_lfc : seen (step (put "+0000" "00000000+" (start "0000+" "+00000-+0"))) (fun t => (t.F, t.W, t.C)) =
    some (word 5 "000+-", .pos, word 5 "000+0") := by decide +kernel
/-- LFC-2 -/
theorem test_lfc_wraps : seen (step (put "+0000" "00000000+" (start "+++++" "+00000-+0")))
    (fun t => (t.F, t.W, t.C)) = some (word 5 "-----", .neg, word 5 "----0") := by decide +kernel
/-- ADF-1 -/
theorem test_adf_wraps : seen (step (put "+0000" "00000000+" ((start "00000" "+00000--0").setF (word 5 "+++++"))))
    (fun t => (t.F, t.W)) = some (word 5 "-----", .neg) := by decide +kernel
/-- SHF-3 -/
theorem test_shf_left : seen (step (put "+00+0" "00000000-" ((start "00000" "+000--+00").setS
    (word 18 "+-+-+-+-+-+-+-+-+-")))) (fun t => (t.S, t.W)) = some (word 18 "-+-+-+-+-+-+-+-+-0", .neg) := by
  decide +kernel
/-- SHF-2 -/
theorem test_shf_all : seen (step (put "+0000" "00000+-00" ((start "00000" "+0000-+00").setS
    (word 18 "+00000000000000000")))) (fun t => (t.S, t.W)) = some (Word.zero 18, .zero) := by decide +kernel
/-- STS-1, over a row that was not zero before -/
theorem test_sts_short : seen (step (put "+0000" "+++++++++" ((start "00000" "+0000-++0").setS
    (word 18 "+-+-+-+-+000000000")))) (fun t => (t.W, framRow t.fram 0 67)) = some (.pos, Word.zero 9) := by
  decide +kernel
/-- STS-2 -/
theorem test_sts_long : seen (step ((start "00000" "+000--++0").setS (word 18 "+-+-+-+-+-0-0-0-0-")))
    (fun t => (framRow t.fram 0 67, framRow t.fram 0 68)) = some (word 9 "+-+-+-+-+", word 9 "-0-0-0-0-") := by
  decide +kernel
/-- NRM-1 -/
theorem test_nrm_right : seen (step ((start "00000" "+000--+-0").setS (word 18 "-+0000000000000000")))
    (fun t => (t.S, t.W, framRow t.fram 0 67)) =
    some (word 18 "00000000000000000+", .pos, word 9 "0-+000000") := by decide +kernel
/-- NRM-2 -/
theorem test_nrm_left : seen (step ((start "00000" "+000--+-0").setS (word 18 "0000000000000-0000")))
    (fun t => (t.S, t.W, framRow t.fram 0 67)) =
    some (word 18 "000000000000000--0", .neg, word 9 "0-0000000") := by decide +kernel
/-- F2D-1 -/
theorem test_f2d : seen (step (put "0---0" "+00000000" (put "----+" "0-0000000" (put "----0" "0+0000000"
    (start "00000" "------0+0"))))) (fun t => (t.MB, t.drum, t.C)) =
    some (word 4 "----", [(0, word 9 "0+0000000"), (1, word 9 "0-0000000")], word 5 "0000+") := by decide +kernel
/-- F2D-2 -/
theorem test_f2d_zone35 : seen (step (put "0++++" "+00000000" (put "----0" "0+0000000" (start "00000" "-++++-0+0"))))
    (fun t => (t.MB, t.drum)) = some (word 4 "++++", [(35 * 54, word 9 "0+0000000")]) := by decide +kernel
/-- D2F-1 -/
theorem test_d2f : seen (step ((start "00000" "+0-00-0-0").setDrum [(0, word 9 "+++++++++"), (53, word 9 "---------")]))
    (fun t => (t.MB, framRow t.fram 0 54, framRow t.fram 1 80)) =
    some (word 4 "0-00", word 9 "+++++++++", word 9 "---------") := by decide +kernel
/-- IO-1 -/
theorem test_io : seen (step ((start "00000" "+0000-000").setS (word 18 "+00000000000000000")))
    (fun t => (t.S, t.W, t.C)) = some (word 18 "+00000000000000000", .zero, word 5 "0000+") := by decide +kernel
/-- RSV-1 -/
theorem test_rsv11 : seen (step (start "00000" "+0000--+0")) (fun t => (t.status, t.C)) =
    some (.stopError, word 5 "00000") := by decide +kernel
/-- R347 -/
theorem test_rsv12 : seen (step (start "00000" "00000--00")) (fun t => (t.status, t.C)) =
    some (.stopError, word 5 "00000") := by decide +kernel
/-- RSV-2 -/
theorem test_rsv13 : seen (step (start "00000" "+0000---0")) (fun t => (t.status, t.C)) =
    some (.stopError, word 5 "00000") := by decide +kernel
/-- REF-1 -/
theorem test_ref_row80 : refusal? (step (start "00000" "++++-+000")) = some .longAccessRow80 := by decide +kernel
/-- REF-2 -/
theorem test_ref_fetch : refusal? (step (State.reset.setC (word 5 "0000-"))) = some .fetchNegativeZone := by
  decide +kernel

/-! ### The value engine and the decoders (95_test_vectors.md 1.2, 1.3, 2.1 to 2.8) -/

theorem test_val : (word 9 "+0-0+0-00").val = 5904 ∧ (word 9 "0+-0+-0+-").val = 1514 := by decide
theorem test_word_wraps : Word.ofInt 5 122 = word 5 "-----" ∧ Word.ofInt 5 (-122) = word 5 "+++++" := by
  decide +kernel
theorem test_resize : (word 9 "+-0+-0+-0").resize 5 = word 5 "-0+-0" ∧
    (word 5 "+-0+-").resize 9 = word 9 "0000+-0+-" := by decide
theorem test_mul_neg : (word 3 "---").mul (word 3 "+++") = word 6 "-+0-+-" := by decide +kernel
theorem test_add_drops_carry : (word 3 "+++").add (word 3 "00+") = word 3 "---" := by decide +kernel
theorem test_xor_table : (Trit.xor .neg .zero, Trit.xor .neg .pos, Trit.xor .zero .neg, Trit.xor .pos .pos) =
    (.pos, .zero, .pos, .neg) := by decide
theorem test_zone : (zone (word 4 "00+-"), zone (word 4 "0+00"), zone (word 4 "++++")) = (1, 8, 35) := by decide
theorem test_next_address : nextAddress (word 5 "0000+") = word 5 "000+0" ∧
    nextAddress (word 5 "+++++") = word 5 "----0" ∧ nextAddress (word 5 "000--") = word 5 "000-0" := by
  decide +kernel
theorem test_control_transform : controlTransform (word 9 "++++0+0++") (word 5 "0000+") = word 9 "+++++0000" ∧
    controlTransform (word 9 "000+0+0+0") (word 5 "+++++") = word 9 "000+0+0+0" := by decide +kernel
theorem test_line : wordOfLine "1Z1Z0".toList = some (word 9 "+0-0+0-00") ∧
    lineOfWord (word 9 "0+-0+-0+-") = "021X2".toList := by decide

/-! ### Witnesses: the hypotheses of the statements can be met -/

/-- A running state with a program word at C, a stored row and nonzero registers. -/
def busy : State := put "+0000" "+-0000000" ((((start "00000" "+0000+000").setS (word 18 "-0000000000000000+")).setF
  (word 5 "0000+")).setW .neg)

/-- `s` with S at the largest 18-trit value. -/
def full : State := busy.setS (word 18 "++++++++++++++++++")

theorem witness_busy_canonical : busy.canonical ∧ full.canonical := by decide +kernel

/-- Accessible effective addresses of every zone, the last long one (row 79) and row 80 on both pages among them. -/
theorem witness_accessible : busy.canonical ∧ accessible (busy.ea (word 5 "+0000") .zero) ∧ accessible (busy.ea (word 5 "++++-") .neg) ∧
    accessible (word 5 "+++0-") ∧ row (word 5 "+++0-") = 79 ∧ accessible (word 5 "++++0") ∧ accessible (word 5 "+++++") ∧
    ¬accessible (word 5 "++++-") := by decide +kernel

theorem witness_same_code : (decode (word 9 "000000+0-")).code = (decode (word 9 "+-+-+0+0+")).code := by decide
theorem witness_table_bits : (∃ k < 9, (2 * 4 ^ 8) / 4 ^ k % 4 = 2) ∧ 4 ^ 9 ≤ (4 ^ 9 : Nat) := by decide
theorem witness_lines : ("14444".toList).all isNonarySymbol = true ∧ ("1444".toList).length ≠ 5 ∧
    ("1444V".toList).all isNonarySymbol = false := by decide
theorem witness_stopped : (busy.setStatus .stopOver).status ≠ .running ∧
    (∃ t, hostStore (word 5 "+000-") (word 9 "+++++++++") (busy.setStatus .stopOver) = .ok t) := ⟨by decide, _, rfl⟩
theorem witness_fetch : busy.status = .running ∧ busy.C.get 5 ≠ .neg ∧
    decode (framRow busy.fram (page busy.C) (row busy.C)) = .lds (word 5 "+0000") .zero := by decide +kernel
theorem witness_negative_zone : (busy.setC (word 5 "0000-")).status = .running ∧
    (busy.setC (word 5 "0000-")).C.get 5 = .neg := by decide
theorem witness_step_next : busy.canonical ∧ ∃ t, step busy = .next t ∧ t.status = .running :=
  ⟨witness_busy_canonical.1, exists_next (by decide +kernel)⟩
theorem witness_same_observable : sameObservable busy ((busy.setMB (word 4 "+-+-")).setK (word 9 "---------")) ∧
    busy ≠ (busy.setMB (word 4 "+-+-")).setK (word 9 "---------") := by decide +kernel
theorem witness_stop_done : busy.status = .running ∧
    ∃ t, exec (.hlt (word 5 "+0000") .zero) busy = .next t ∧ t.status = .stopDone :=
  ⟨by decide, exists_next (by decide +kernel)⟩
theorem witness_stop_error : ∃ t, exec (.rsv12 (word 5 "+0000") .zero) busy = .next t ∧ t.status = .stopError :=
  exists_next (by decide +kernel)
theorem witness_stop_over : ∃ t, exec (.add (word 5 "+0000") .zero) full = .next t ∧ t.status = .stopOver :=
  exists_next (by decide +kernel)
theorem witness_step_stops : ∃ t, step (start "00000" "+0000+--0") = .next t ∧ t.status = .stopDone :=
  exists_next (by decide +kernel)
theorem witness_step_stops_error : ∃ t, step (start "00000" "+0000--+0") = .next t ∧ t.status = .stopError :=
  exists_next (by decide +kernel)
theorem witness_run_ends :
    (match hostRun 1 (start "00000" "+0000+--0") with | .stopped t => t.status | _ => .running) = .stopDone ∧
    (match hostRun 2 (start "00000" "++++-+000") with | .refused r _ => some r | _ => none) = some .longAccessRow80 ∧
    (match hostRun 1 busy with | .capped t => t.status | _ => .stopOver) = .running := by decide +kernel
theorem witness_step_stops_over : ∃ t, step (put "+0000" "+++++++++" ((start "00000" "+0000+0+0").setS
    (word 18 "++++++++++++++++++"))) = .next t ∧ t.status = .stopOver := exists_next (by decide +kernel)
/-- The reset state and a busy one that differs from it in S, F, W and a stored row, both at `00000` with a zero word. -/
theorem witness_zero_word : (State.reset.status = .running ∧ State.reset.C = Word.zero 5 ∧
    framRow State.reset.fram 0 40 = Word.zero 9) ∧ (put "00000" "000000000" busy).status = .running ∧
    (put "00000" "000000000" busy).C = Word.zero 5 ∧ framRow (put "00000" "000000000" busy).fram 0 40 = Word.zero 9 ∧
    framRow (put "00000" "000000000" busy).fram 0 67 = word 9 "+-0000000" := by decide +kernel
theorem witness_continue : ∃ t, exec (.stc (word 5 "+0000") .zero) busy = .next t ∧ t.status = .running :=
  exists_next (by decide +kernel)
theorem witness_writes_F : ∃ t, exec (.adf (word 5 "0+0+0") .zero) (put "0+0+0" "00000000+" busy) = .next t ∧
    t.F = word 5 "000+-" := exists_next (by decide +kernel)
theorem witness_writes_R_S_W : ∃ t, exec (.mul (word 5 "+0000") .zero) (busy.setW .pos) = .next t ∧
    (t.R, decide (t.S ≠ busy.S), t.W) = (word 18 "-00000000000000000", true, .neg) := exists_next (by decide +kernel)
theorem witness_writes_MB_drum : ∃ t, exec (.f2d (word 5 "0000+") .zero) busy = .next t ∧
    (t.MB, decide (t.drum ≠ busy.drum)) = (word 4 "000+", true) := exists_next (by decide +kernel)
theorem witness_writes_fram : ∃ t, exec (.sts (word 5 "+000-") .zero) busy = .next t ∧
    decide (t.fram ≠ busy.fram) = true := exists_next (by decide +kernel)
theorem witness_short_store : busy.canonical ∧ (busy.ea (word 5 "+0000") .pos).get 5 ≠ .neg ∧ (busy.ea (word 5 "+++++") .zero).get 5 ≠ .neg := by
  decide +kernel
theorem witness_modified_or_not : (word 9 "+0000+00-").get 9 ≠ .zero ∧ (word 9 "+0000+000").get 9 = .zero := by decide
theorem witness_rows : (page (word 5 "----0"), row (word 5 "----0")) = (0, 0) ∧
    (page (word 5 "+++++"), row (word 5 "+++++")) = (1, 80) := by decide
theorem witness_zones : (word 5 "+++++").get 5 = .pos ∧ (word 5 "----0").get 5 = .zero ∧
    (word 5 "+++0-").get 5 = .neg ∧ row (word 5 "+++0-") ≠ 80 ∧ row (word 5 "-----") = 0 := by decide
theorem witness_row80 : busy.ea (word 5 "++++0") .neg = ⟨[.pos, .pos, .pos, .pos, .neg], rfl⟩ ∧
    busy.ea (word 5 "++++-") .zero = ⟨[.pos, .pos, .pos, .pos, .neg], rfl⟩ := by decide +kernel
theorem witness_page0_page1 : ((word 5 "++++0").get 5 ≠ .neg ∧ page (word 5 "++++0") = 0) ∧
    ((word 5 "+++++").get 5 ≠ .neg ∧ page (word 5 "+++++") = 1) := by decide
theorem witness_representable : |(121 : Int)| ≤ halfRange 5 ∧ |(-121 : Int)| ≤ halfRange 5 ∧ ¬|(122 : Int)| ≤ halfRange 5 := by
  decide
theorem witness_first_nonzero : (word 3 "0-+").get 2 ≠ .zero ∧ ∀ j : Int, j < 2 → (word 3 "0-+").get j = .zero := by
  refine ⟨by decide, fun j hj => ?_⟩
  by_cases h : j = 1
  · subst h; decide
  · unfold Word.get; rw [if_neg (by omega)]
theorem witness_shift_counts : ((18 : Nat) : Int) ≤ |(18 : Int)| ∧ ((18 : Nat) : Int) ≤ |(-18 : Int)| := by decide
theorem witness_positions : ¬(0 ≤ (5 : Int) ∧ (5 : Int) < (5 : Nat)) ∧ ¬(0 ≤ (-1 : Int) ∧ (-1 : Int) < (5 : Nat)) ∧
    (0 ≤ (4 : Int) ∧ (4 : Int) < (5 : Nat)) ∧ (4 : Int) ≠ 0 := by decide
/-- Setun positions 0, 1, 5 and 6 of a 5-trit word. -/
theorem witness_setun_positions : ¬(1 ≤ (0 : Int) ∧ (0 : Int) ≤ (5 : Nat)) ∧ ¬(1 ≤ (6 : Int) ∧ (6 : Int) ≤ (5 : Nat)) ∧
    (1 ≤ (1 : Int) ∧ (1 : Int) ≤ (5 : Nat)) ∧ (1 ≤ (5 : Int) ∧ (5 : Int) ≤ (5 : Nat)) := by decide
/-- R150 at its boundaries: from 0 to L - 1, one trit at each end, and from -1, to L, from > to. -/
theorem witness_slice_generic : (word 5 "+-0-+").sliceGeneric 0 4 = (word 5 "+-0-+").trits ∧
    (word 5 "+-0-+").sliceGeneric 0 0 = [.pos] ∧ (word 5 "+-0--").sliceGeneric 4 4 = [.pos] ∧
    (word 5 "+-0-+").sliceGeneric 1 3 = (word 3 "-0-").trits ∧
    (word 5 "+-0-+").sliceGeneric (-1) 3 = (word 5 "+-0-+").trits ∧
    (word 5 "+-0-+").sliceGeneric 1 5 = (word 5 "+-0-+").trits ∧
    (word 5 "+-0-+").sliceGeneric 3 2 = (word 5 "+-0-+").trits := by decide
/-- R155 at its boundaries: 1 to L, one trit at each end, and from 0, to L + 1, from > to. -/
theorem witness_slice_setun : (word 5 "+-0-0").sliceSetun 1 5 = (word 5 "+-0-0").trits ∧
    (word 5 "+-0-0").sliceSetun 1 1 = [.pos] ∧ (word 5 "+-0-0").sliceSetun 5 5 = [.zero] ∧
    (word 5 "+-0-0").sliceSetun 2 4 = (word 3 "-0-").trits ∧
    (word 5 "+-0-0").sliceSetun 0 3 = (word 5 "+-0-0").trits ∧
    (word 5 "+-0-0").sliceSetun 2 6 = (word 5 "+-0-0").trits ∧
    (word 5 "+-0-0").sliceSetun 4 3 = (word 5 "+-0-0").trits := by decide
theorem witness_symbols : symbolsToWord "+0-".toList = some (word 3 "+0-").trits := by decide

/-- The exact results of ADD and SUB at the limits, and one past them. -/
theorem witness_sum_limits :
    (framLoad full.fram (full.ea (word 5 "0+0+0") .zero)).toOption.map (fun M => full.S.val + M.to18.val) =
      some 193710244 ∧
    (framLoad (put "0+0+0" "00000000+" full).fram (word 5 "0+0--")).toOption.map (fun M => full.S.val + M.to18.val) =
      some 193710244 ∧
    (framLoad (put "0+0+0" "00000000+" full).fram (word 5 "0+00-")).toOption.map (fun M => full.S.val + M.to18.val) =
      some 193710245 ∧
    (framLoad (put "0+0+0" "00000000+" full).fram (word 5 "0+00-")).toOption.map
      (fun M => (word 18 "------------------").val - M.to18.val) = some (-193710245) := by decide +kernel
/-- One state and operand at which ADD, MULA and MULB are in range and SUB is not. -/
theorem witness_checked_sums :
    let s := busy.setR (word 18 "0+0000000000000000")
    let M := RawWord.short (word 9 "+-0000000")
    accessible (s.ea (word 5 "+0000") .zero) ∧ framLoad s.fram (s.ea (word 5 "+0000") .zero) = .ok M ∧
    |s.S.val + M.to18.val| ≤ 193710244 ∧ |s.S.val + (mulSel M.to18 s.R).val| ≤ 193710244 ∧
    |M.to18.val + (mulSel s.S s.R).val| ≤ 193710244 ∧ 193710244 < |s.S.val - M.to18.val| := by decide +kernel
/-- MULA and MULB: an exact result in range, and one out of range. -/
theorem witness_product_sums :
    busy.S.val + (mulSel (RawWord.short (word 9 "0-0000000")).to18 (word 18 "0+0000000000000000")).val =
      -129140162 - 4782969 ∧
    (RawWord.short (word 9 "00000000+")).to18.val +
      (mulSel (word 18 "0+0000000000000000") (word 18 "0+0000000000000000")).val = 4802652 ∧
    193710244 < full.S.val + (mulSel (RawWord.short (word 9 "0+0000000")).to18 (word 18 "0+0000000000000000")).val ∧
    193710244 < (RawWord.short (word 9 "+++++++++")).to18.val +
      (mulSel (word 18 "0+0000000000000000") (word 18 "0+0000000000000000")).val := by decide +kernel
theorem witness_overflow_next : ∃ M, framLoad full.fram (full.ea (word 5 "+0000") .zero) = .ok M ∧
    ∃ t, exec (.add (word 5 "+0000") .zero) full = .next t ∧ t.status = .stopOver :=
  ⟨.short (word 9 "+-0000000"), by decide +kernel, exists_next (by decide +kernel)⟩
theorem witness_W : (busy.setW .zero).W = .zero ∧ (busy.setW .pos).W = .pos ∧ (busy.setW .neg).W = .neg := by decide

/-- An S for each clause of NRM's count, first nonzero positions 1, 2, 3 and 18, and zero. -/
theorem witness_norm : (word 18 "+-").get 1 ≠ .zero ∧ ((word 18 "0-").get 1 = .zero ∧ (word 18 "0-").get 2 ≠ .zero) ∧
    (word 18 "00+").get 3 ≠ .zero ∧ (word 18 "00000000000000000-").get 18 ≠ .zero ∧
    word 18 "000000000000000000" = Word.zero 18 ∧
    (normCount (word 18 "+-"), normCount (word 18 "0-"), normCount (word 18 "00+"),
      normCount (word 18 "00000000000000000-"), normCount (Word.zero 18)) = (1, 0, -1, -16, 0) := by decide +kernel
theorem witness_norm_before : ∀ i : Int, i < 3 → (word 18 "00+").get i = .zero := by
  intro i hi
  by_cases h1 : i = 1
  · subst h1; decide
  by_cases h2 : i = 2
  · subst h2; decide
  unfold Word.get; rw [if_neg (by omega)]
/-- Drum zone fields at the values where the clauses meet: 1, 36, and beyond both. -/
theorem witness_zone_values : (word 4 "000+").val = 1 ∧ zone (word 4 "000+") = 0 ∧ (word 4 "++00").val = 36 ∧
    zone (word 4 "++00") = 35 ∧ (word 4 "00+-").val = 2 ∧ (word 4 "----").val ≤ 1 ∧ 36 ≤ (word 4 "++++").val := by decide
theorem witness_drum_rows : drow 0 = 0 ∧ drow 53 = 53 ∧ drow (-1) = 0 ∧ drow 54 = 53 := by decide
theorem witness_cursor : (page (transferStart (word 5 "+0+-+")), row (transferStart (word 5 "+0+-+"))) = (0, 54) ∧
    thirdBase (word 5 "+0+-+") = 54 ∧ thirdBase (word 5 "-0000") = 0 := by decide
theorem witness_transfer : busy.canonical ∧ 0 < 36 ∧ 53 < 54 ∧ 35 ≠ zone ((busy.ea (word 5 "+0+-+") .zero).slice 2 4) ∧
    53 < thirdBase (busy.ea (word 5 "+0+-+") .zero) ∧ thirdBase (busy.ea (word 5 "00+-+") .zero) + 27 ≤ 54 := by
  decide +kernel
theorem witness_round_trip : busy.fram.wf 162 = true ∧ busy.drum.wf 1944 = true ∧ (word 5 "00+-+").slice 2 4 = (word 5 "+0+-+").slice 2 4 ∧
    (word 5 "00+-+").get 1 ≠ (word 5 "+0+-+").get 1 ∧ (word 5 "00+-+").get 1 = (word 5 "00+-+").get 1 := by
  decide +kernel

end Sys2Proof.Tests
end

/-! ### What each instruction can do to the state

One inversion lemma for `exec`: every frame statement and the memory invariant below follow from its cases. -/

namespace Sys2Proof.Machine

/-- The next states an instruction can answer from `s`, grouped by what the instruction writes (10_state.md R33 to
R45). `exec_effect` ties it to the model. -/
inductive ExecEffect (s : State) : Instr → State → Prop where
  /-- a new accumulator with its sign -/
  | writesS {i : Instr} {v : Word 18} (hi : ∃ a m, i = .lds a m ∨ i = .xor a m ∨ i = .shf a m) :
      ExecEffect s i ((s.setSAndW v).setC (nextAddress s.C))
  /-- a checked sum, in range or not -/
  | checkedSum {i : Instr} {t : State} {x : Int}
      (hi : ∃ a m, i = .add a m ∨ i = .sub a m ∨ i = .mula a m ∨ i = .mulb a m) (h : accumulate x s = .next t) :
      ExecEffect s i t
  /-- a checked product after the new R -/
  | product {a : Word 5} {m : Trit} {t : State} {x : Int} {v : Word 18} (h : accumulate x (s.setR v) = .next t) :
      ExecEffect s (.mul a m) t
  /-- a new R -/
  | loadsR {a : Word 5} {m : Trit} {v : Word 18} : ExecEffect s (.ldr a m) ((s.setR v).setC (nextAddress s.C))
  /-- a new R and the normal stop -/
  | halts {a : Word 5} {m : Trit} {v : Word 18} : ExecEffect s (.hlt a m) ((s.setR v).setStatus .stopDone)
  /-- C alone -/
  | movesC {i : Instr} {c : Word 5}
      (hi : ∃ a m, i = .bp a m ∨ i = .bz a m ∨ i = .bn a m ∨ i = .jmp a m ∨ i = .io a m) : ExecEffect s i (s.setC c)
  /-- a store that leaves the registers -/
  | storesC {a : Word 5} {m : Trit} {fram : Memory} (hf : framStore s.fram (s.ea a m) s.C = .ok fram) :
      ExecEffect s (.stc a m) ((s.setFram fram).setC (nextAddress s.C))
  /-- a store of F or S with its sign -/
  | storesSigned {i : Instr} {L : Nat} {b : Word 5} {v : Word L} {fram : Memory}
      (hi : ∃ a m, i = .stf a m ∨ i = .sts a m) (hf : framStore s.fram b v = .ok fram) :
      ExecEffect s i (((s.setFram fram).setW v.sgn).setC (nextAddress s.C))
  /-- a store of the normalized word, and the shift count in S -/
  | normalizes {a : Word 5} {m : Trit} {v n : Word 18} {fram : Memory} (hf : framStore s.fram (s.ea a m) v = .ok fram) :
      ExecEffect s (.nrm a m) (((s.setFram fram).setSAndW n).setC (nextAddress s.C))
  /-- a new index register with its sign -/
  | writesF {i : Instr} {v : Word 5} (hi : ∃ a m, i = .ldf a m ∨ i = .lfc a m ∨ i = .adf a m) :
      ExecEffect s i ((s.setFAndW v).setC (nextAddress s.C))
  /-- the block transfer to DRUM -/
  | toDrum {a : Word 5} {m : Trit} {z : Word 4} :
      ExecEffect s (.f2d a m)
        (((s.setMB z).setDrum (framToDrum (s.ea a m) s.fram s.drum)).setC (nextAddress s.C))
  /-- the block transfer to FRAM -/
  | toFram {a : Word 5} {m : Trit} {z : Word 4} :
      ExecEffect s (.d2f a m)
        (((s.setMB z).setFram (drumToFram (s.ea a m) s.fram s.drum)).setC (nextAddress s.C))
  /-- the stop of a reserved code -/
  | reserved {i : Instr} (hi : ∃ a m, i = .rsv11 a m ∨ i = .rsv12 a m ∨ i = .rsv13 a m) :
      ExecEffect s i (s.setStatus .stopError)

/-- An arm that reads its operand and then continues in a state computed from it. -/
theorem withOperand_continue {a : Word 5} {m : Trit} {s t : State} {f : RawWord → State}
    (h : withOperand a m s (fun M => continueStep (f M)) = .next t) :
    ∃ M, t = (f M).setC (nextAddress (f M).C) := by
  obtain ⟨M, -, hM⟩ := withOperand_next.mp h
  exact ⟨M, continueStep_next.mp hM⟩

/-- An arm that stores and then continues in a state computed from the one after the store. -/
theorem storeAndThen_continue {L : Nat} {a : Word 5} {v : Word L} {s t : State} {f : State → State}
    (h : storeAndThen a v s (fun s' => continueStep (f s')) = .next t) :
    ∃ fram, framStore s.fram a v = .ok fram ∧
      t = (f (s.setFram fram)).setC (nextAddress (f (s.setFram fram)).C) := by
  obtain ⟨fram, hf, hk⟩ := storeAndThen_next.mp h
  exact ⟨fram, hf, continueStep_next.mp hk⟩

/-- A branch, taken or not, writes C alone. -/
theorem branchIf_setsC {c : Bool} {a : Word 5} {m : Trit} {s t : State} (h : branchIf c a m s = .next t) :
    ∃ v, t = s.setC v := by
  rcases branchIf_next.mp h with ⟨-, ht⟩ | ⟨-, ht⟩ <;> exact ⟨_, ht⟩

/-- Everything an instruction that answers a next state can have done. -/
theorem exec_effect {i : Instr} {s t : State} (h : exec i s = .next t) : ExecEffect s i t := by
  cases i with
  | lds a m | xor a m | shf a m =>
    obtain ⟨M, rfl⟩ := withOperand_continue h
    exact .writesS ⟨a, m, by simp⟩
  | add a m | sub a m | mula a m | mulb a m =>
    obtain ⟨M, -, hM⟩ := withOperand_next.mp h
    exact .checkedSum ⟨a, m, by simp⟩ hM
  | mul a m =>
    obtain ⟨M, -, hM⟩ := withOperand_next.mp h
    exact .product hM
  | ldr a m =>
    obtain ⟨M, rfl⟩ := withOperand_continue h
    exact .loadsR
  | hlt a m =>
    obtain ⟨M, -, hM⟩ := withOperand_next.mp h
    obtain rfl := stopWith_next.mp hM
    exact .halts
  | bp a m | bz a m | bn a m =>
    obtain ⟨c, rfl⟩ := branchIf_setsC h
    exact .movesC ⟨a, m, by simp⟩
  | jmp a m =>
    obtain rfl := jumpTo_next.mp h
    exact .movesC ⟨a, m, by simp⟩
  | io a m =>
    obtain rfl := continueStep_next.mp h
    exact .movesC ⟨a, m, by simp⟩
  | stc a m =>
    rw [exec, execStc] at h
    obtain ⟨fram, hf, rfl⟩ := storeAndThen_continue h
    exact .storesC hf
  | stf a m =>
    rw [exec, execStf] at h
    obtain ⟨fram, hf, rfl⟩ := storeAndThen_continue h
    exact .storesSigned ⟨a, m, by simp⟩ hf
  | sts a m =>
    rw [exec, execSts] at h
    obtain ⟨fram, hf, rfl⟩ := storeAndThen_continue h
    exact .storesSigned ⟨a, m, by simp⟩ hf
  | nrm a m =>
    rw [exec, execNrm] at h
    obtain ⟨fram, hf, rfl⟩ := storeAndThen_continue h
    exact .normalizes hf
  | ldf a m | lfc a m | adf a m =>
    obtain ⟨M, rfl⟩ := withOperand_continue h
    exact .writesF ⟨a, m, by simp⟩
  | f2d a m =>
    obtain rfl := continueStep_next.mp h
    exact .toDrum
  | d2f a m =>
    obtain rfl := continueStep_next.mp h
    exact .toFram
  | rsv11 a m | rsv12 a m | rsv13 a m =>
    obtain rfl := stopWith_next.mp h
    exact .reserved ⟨a, m, by simp⟩

/-! ### Both memories stay canonical (10_state.md R44, R45) -/

/-- A store, whatever the arm writes to the registers after it, keeps both memories canonical. -/
theorem canonical_of_framStore {L : Nat} {s t : State} {b : Word 5} {v : Word L} {fram : Memory} (hs : s.canonical)
    (hf : framStore s.fram b v = .ok fram) (hfram : t.fram = fram) (hdrum : t.drum = s.drum) : t.canonical := by
  obtain ⟨hwf, hwd⟩ := hs
  exact ⟨hfram ▸ framStore_wf hwf hf, hdrum ▸ hwd⟩

/-- Every instruction keeps both memories canonical: only stores and block transfers write one, and each writes rows
that exist. -/
theorem exec_canonical {i : Instr} {s t : State} (hs : s.canonical) (h : exec i s = .next t) : t.canonical := by
  cases exec_effect h with
  | writesS | loadsR | halts | movesC | writesF | reserved => exact canonical_of_eq hs rfl rfl
  | checkedSum _ h | product h =>
    obtain ⟨-, -, -, -, -, hfram, hdrum⟩ := accumulate_frame h
    exact canonical_of_eq hs hfram hdrum
  | storesC hf | storesSigned _ hf | normalizes hf => exact canonical_of_framStore hs hf rfl rfl
  | toDrum =>
    obtain ⟨hwf, hwd⟩ := hs
    exact ⟨hwf, framToDrum_wf hwd⟩
  | toFram =>
    obtain ⟨hwf, hwd⟩ := hs
    exact ⟨drumToFram_wf hwf, hwd⟩

/-- Settles O14: the fetch writes no memory, and the decoded instruction keeps both canonical. -/
theorem stepKeepsMemoriesCanonical : Obligations.StepKeepsMemoriesCanonical := by
  intro s t hs h
  obtain ⟨-, w, -, hexec⟩ := step_next.mp h
  exact exec_canonical (canonical_of_eq hs (State.fetched_fram s w) (State.fetched_drum s w)) hexec

/-- Settles O8: both memories are empty lists after reset. -/
theorem resetStateIsCanonical : Obligations.ResetStateIsCanonical :=
  ⟨Memory.wf_nil 162, Memory.wf_nil 1944⟩

/-! ### Which instructions write what -/

/-- Settles O20, from the effects that set a memory. -/
theorem memoryWritesComeOnlyFromTheirInstructions : Obligations.MemoryWritesComeOnlyFromTheirInstructions := by
  intro i s t h
  cases exec_effect h with
  | writesS | loadsR | halts | movesC | writesF | reserved => simp
  | checkedSum _ h | product h =>
    obtain ⟨-, -, -, -, -, hfram, hdrum⟩ := accumulate_frame h
    exact ⟨fun hne => absurd hfram hne, fun hne => absurd hdrum hne⟩
  | storesSigned hi =>
    obtain ⟨a, m, rfl | rfl⟩ := hi <;> simp
  | storesC | normalizes | toDrum | toFram => simp

/-- Settles O19, from the effects that set each register. -/
theorem registerWritesComeOnlyFromTheirInstructions : Obligations.RegisterWritesComeOnlyFromTheirInstructions := by
  intro i s t h
  cases exec_effect h with
  | loadsR | halts | movesC | storesC | normalizes | toDrum | toFram | reserved => simp
  | writesS hi | writesF hi => obtain ⟨a, m, rfl | rfl | rfl⟩ := hi <;> simp
  | storesSigned hi => obtain ⟨a, m, rfl | rfl⟩ := hi <;> simp
  | checkedSum hi h =>
    obtain ⟨hK, hF, hR, hMB, hMR, -, -⟩ := accumulate_frame h
    obtain ⟨a, m, rfl | rfl | rfl | rfl⟩ := hi <;> simp [hK, hF, hR, hMB, hMR]
  | product h =>
    obtain ⟨hK, hF, -, hMB, hMR, -, -⟩ := accumulate_frame h
    simp [hK, hF, hMB, hMR]

/-! ### What a program cannot observe (10_state.md R33, R39 to R41) -/

theorem alike.C_eq {s t : State} (h : alike s t) : s.C = t.C := by
  obtain ⟨⟨-, hC, -⟩, -⟩ := h; exact hC

theorem alike.F_eq {s t : State} (h : alike s t) : s.F = t.F := by
  obtain ⟨⟨hF, -⟩, -⟩ := h; exact hF

theorem alike.W_eq {s t : State} (h : alike s t) : s.W = t.W := by
  obtain ⟨⟨-, -, hW, -⟩, -⟩ := h; exact hW

theorem alike.S_eq {s t : State} (h : alike s t) : s.S = t.S := by
  obtain ⟨⟨-, -, -, hS, -⟩, -⟩ := h; exact hS

theorem alike.R_eq {s t : State} (h : alike s t) : s.R = t.R := by
  obtain ⟨⟨-, -, -, -, hR, -⟩, -⟩ := h; exact hR

theorem alike.fram_eq {s t : State} (h : alike s t) : s.fram = t.fram := by
  obtain ⟨⟨-, -, -, -, -, -, hfram, -⟩, -⟩ := h; exact hfram

theorem alike.drum_eq {s t : State} (h : alike s t) : s.drum = t.drum := by
  obtain ⟨⟨-, -, -, -, -, -, -, hdrum⟩, -⟩ := h; exact hdrum

/-- Every instruction answers alike from states alike: what it reads is observable. Each arm is its shared operation
after the fields it reads are carried from one state to the other. -/
theorem sameAnswer_exec {s t : State} (h : alike s t) (i : Instr) : sameAnswer (exec i s) (exec i t) := by
  cases i with
  | lds a m => exact sameAnswer_withOperand h a m fun M => sameAnswer_continueStep (h.setSAndW _)
  | xor a m | shf a m =>
    simp only [exec, execXor, execShf, h.S_eq]
    exact sameAnswer_withOperand h a m fun M => sameAnswer_continueStep (h.setSAndW _)
  | add a m | sub a m | mula a m | mulb a m =>
    simp only [exec, execAdd, execSub, execMula, execMulb, h.S_eq, h.R_eq]
    exact sameAnswer_withOperand h a m fun M => sameAnswer_accumulate h _
  | mul a m =>
    simp only [exec, execMul, h.S_eq]
    exact sameAnswer_withOperand h a m fun M => sameAnswer_accumulate (h.setR _) _
  | ldr a m => exact sameAnswer_withOperand h a m fun M => sameAnswer_continueStep (h.setR _)
  | hlt a m => exact sameAnswer_withOperand h a m fun M => sameAnswer_stopWith (h.setR _) _
  | bp a m | bz a m | bn a m =>
    simp only [exec, execBp, execBz, execBn, h.W_eq]
    exact sameAnswer_branchIf h _ a m
  | jmp a m =>
    simp only [exec, execJmp, h.ea]
    exact sameAnswer_jumpTo h _
  | io a m => exact sameAnswer_continueStep h
  | stc a m =>
    simp only [exec, execStc, h.ea, h.C_eq]
    exact sameAnswer_storeAndThen h _ _ fun s t h => sameAnswer_continueStep h
  | stf a m | sts a m =>
    simp only [exec, execStf, execSts, h.ea, h.F_eq, h.S_eq]
    exact sameAnswer_storeAndThen h _ _ fun s t h => sameAnswer_continueStep (h.setW _)
  | nrm a m =>
    simp only [exec, execNrm, h.ea, h.S_eq]
    exact sameAnswer_storeAndThen h _ _ fun s t h => sameAnswer_continueStep (h.setSAndW _)
  | ldf a m => exact sameAnswer_withOperand h a m fun M => sameAnswer_continueStep (h.setFAndW _)
  | lfc a m | adf a m =>
    simp only [exec, execLfc, execAdf, h.C_eq, h.F_eq]
    exact sameAnswer_withOperand h a m fun M => sameAnswer_continueStep (h.setFAndW _)
  | f2d a m =>
    simp only [exec, execF2d, h.ea, h.fram_eq, h.drum_eq]
    exact sameAnswer_continueStep ((h.setMB _).setDrum _)
  | d2f a m =>
    simp only [exec, execD2f, h.ea, h.fram_eq, h.drum_eq]
    exact sameAnswer_continueStep ((h.setMB _).setFram _)
  | rsv11 a m | rsv12 a m | rsv13 a m => exact sameAnswer_stopWith h _

/-- The fetch reads C and FRAM alone. -/
theorem fetchWord_congr {s t : State} (h : sameObservable s t) : fetchWord s = fetchWord t := by
  obtain ⟨-, hC, -, -, -, -, hfram, -⟩ := h
  simp only [fetchWord, hC, hfram]

/-- Settles O15: the fetch makes K alike, and every instruction answers alike from there. -/
theorem hiddenRegistersAreUnobservable : Obligations.HiddenRegistersAreUnobservable := by
  intro s t h
  have hstatus : s.status = t.status := by
    obtain ⟨-, -, -, -, -, hst, -⟩ := h
    exact hst
  unfold step
  rw [fetchWord_congr h, hstatus]
  split
  · cases fetchWord t with
    | error r => exact .refused r
    | ok w => exact sameAnswer_exec (alike_fetched h w) (decode w)
  · exact .fault _

end Sys2Proof.Machine

/-! ### The bit form of a word (notes/assumptions/7.md) -/

namespace Sys2Proof

/-- Decoding reads the fields the encoder wrote (30_encoding.md R111, R114). -/
theorem decode_encode (i : Instr) : decode (encode i) = i := by
  obtain ⟨haddr, hop, hmod⟩ := Laws.encodedFields i
  obtain ⟨h6, h7, h8⟩ : (encode i).get 6 = i.opcode.1 ∧ (encode i).get 7 = i.opcode.2.1 ∧
      (encode i).get 8 = i.opcode.2.2 := by
    simp [← hop]
  rw [decode, haddr, hmod, h6, h7, h8]
  cases i <;> rfl

@[simp] theorem tritOfPair_pairOfTrit (t : Trit) : tritOfPair (pairOfTrit t) = t := by cases t <;> rfl

theorem pairOfTrit_lt (t : Trit) : pairOfTrit t < 4 := by cases t <;> decide

theorem pairOfTrit_ne_two (t : Trit) : pairOfTrit t ≠ 2 := by cases t <;> decide

/-- The number of a list of trits, most significant first: `bitsOfWord` before the length is fixed. -/
def bitsOfTrits (ts : List Trit) : Nat := ts.foldl (fun acc t => 4 * acc + pairOfTrit t) 0

theorem bitsOfWord_eq (w : Word 9) : bitsOfWord w = bitsOfTrits w.trits := rfl

theorem bitsOfTrits_concat (ts : List Trit) (t : Trit) :
    bitsOfTrits (ts ++ [t]) = 4 * bitsOfTrits ts + pairOfTrit t := by
  simp [bitsOfTrits]

theorem bitsOfTrits_lt (ts : List Trit) : bitsOfTrits ts < 4 ^ ts.length := by
  induction ts using List.reverseRecOn with
  | nil => decide
  | append_singleton ts t ih =>
    have := pairOfTrit_lt t
    rw [bitsOfTrits_concat, List.length_append, List.length_singleton, pow_succ]
    omega

theorem flagPair_zero (bits : Nat) : flagPair bits 0 = bits % 4 := by simp [flagPair]

theorem flagPair_succ (bits k : Nat) : flagPair bits (k + 1) = flagPair (bits / 4) k := by
  rw [flagPair, flagPair, pow_succ', Nat.div_div_eq_div_mul]

/-- The flag pair at generic position `k` is that of the `k`-th trit from the end. -/
theorem flagPair_bitsOfTrits (ts : List Trit) (k : Nat) :
    flagPair (bitsOfTrits ts) k = pairOfTrit (ts.reverse.getD k .zero) := by
  induction ts using List.reverseRecOn generalizing k with
  | nil => simp [bitsOfTrits, flagPair, pairOfTrit]
  | append_singleton ts t ih =>
    have hlt := pairOfTrit_lt t
    rw [bitsOfTrits_concat, List.reverse_append, List.reverse_singleton, List.singleton_append]
    cases k with
    | zero => rw [flagPair_zero, List.getD_cons_zero]; omega
    | succ k =>
      have hdiv : (4 * bitsOfTrits ts + pairOfTrit t) / 4 = bitsOfTrits ts := by omega
      rw [flagPair_succ, hdiv, ih, List.getD_cons_succ]

/-- Setun position `i` of a word is held in the flag pair at generic position `9 - i`. -/
theorem flagPair_bitsOfWord (w : Word 9) {i : Int} (h1 : 1 ≤ i) (h9 : i ≤ 9) :
    flagPair (bitsOfWord w) (9 - i).toNat = pairOfTrit (w.get i) := by
  have hk : (9 - i).toNat < w.trits.length := by rw [w.length_eq]; omega
  have hi : w.trits.length - 1 - (9 - i).toNat = (i - 1).toNat := by rw [w.length_eq]; omega
  rw [bitsOfWord_eq, flagPair_bitsOfTrits, w.get_eq_getD h1, List.getD_eq_getElem?_getD,
    List.getElem?_reverse hk, hi, List.getD_eq_getElem?_getD]

theorem wordOfBits_bitsOfWord (w : Word 9) : wordOfBits (bitsOfWord w) = w :=
  Word.ext_get fun i h1 h9 => by
    rw [wordOfBits, Word.get_ofFn, if_pos ⟨h1, h9⟩, flagPair_bitsOfWord w h1 h9, tritOfPair_pairOfTrit]

theorem wellFormedBits_iff (bits : Nat) :
    wellFormedBits bits = true ↔ bits < 4 ^ 9 ∧ ∀ k < 9, flagPair bits k ≠ 2 := by
  simp [wellFormedBits, fitsNineTrits, noIllegalPair]

theorem wellFormedBits_bitsOfWord (w : Word 9) : wellFormedBits (bitsOfWord w) = true := by
  refine (wellFormedBits_iff _).mpr ⟨?_, fun k _ => ?_⟩
  · simpa [bitsOfWord_eq, w.length_eq] using bitsOfTrits_lt w.trits
  · rw [bitsOfWord_eq, flagPair_bitsOfTrits]
    exact pairOfTrit_ne_two _

/-- `decodeTableWord` decodes exactly the numbers that are the bit form of a word. -/
theorem decodeTableWord_eq (n bits : Nat) :
    decodeTableWord n bits = if wellFormedBits bits = true then some (decode (wordOfBits bits)) else none := by
  unfold decodeTableWord decodeBits wordOfTableBits wellFormedBits
  cases fitsNineTrits bits <;> cases noIllegalPair bits <;> rfl

/-- Settles O5: the bits of a word are well formed and give it back, and `decodeTableWord` rejects exactly what is not
well formed. -/
theorem tableBitsDecodeOrAreRejected : Obligations.TableBitsDecodeOrAreRejected := by
  refine ⟨fun n i => ?_, fun n bits => ?_⟩
  · rw [decodeTableWord_eq, if_pos (wellFormedBits_bitsOfWord _), wordOfBits_bitsOfWord, decode_encode]
  · have hnone : decodeTableWord n bits = none ↔ ¬wellFormedBits bits = true := by simp [decodeTableWord_eq]
    rw [hnone, wellFormedBits_iff]
    simp only [flagPair, not_and_or, not_lt, not_forall, not_not, exists_prop]

end Sys2Proof

/-! ### Integers and sub-words: what the addresses and the stores need (spec 00_scope.md R13, 40_alu.md R156, R159) -/

namespace Sys2Proof

theorem Trit.ofSign_balanced (t : Trit) (n : Int) : Trit.ofSign ((3 * n + t.toInt + 1) % 3 - 1) = t := by
  have hdigit : (3 * n + t.toInt + 1) % 3 - 1 = t.toInt := by rcases t.toInt_cases with h | h | h <;> omega
  rw [hdigit, ofSign_toInt]

theorem Trit.toInt_ofSign_balanced (n : Int) : (Trit.ofSign (n % 3 - 1)).toInt = n % 3 - 1 := by
  obtain h | h | h : n % 3 = 0 ∨ n % 3 = 1 ∨ n % 3 = 2 := by omega
  all_goals rw [h]; rfl

namespace Word

variable {L : Nat}

/-- The value of a list of trits, most significant first: `val` before the length is fixed. -/
def trigits (ts : List Trit) : Int := ts.foldl (fun acc t => 3 * acc + t.toInt) 0

theorem val_eq_trigits (w : Word L) : w.val = trigits w.trits := rfl

theorem trigits_concat (ts : List Trit) (t : Trit) : trigits (ts ++ [t]) = 3 * trigits ts + t.toInt :=
  val_concat ts t

theorem trigits_append (ts us : List Trit) : trigits (ts ++ us) = 3 ^ us.length * trigits ts + trigits us := by
  induction us using List.reverseRecOn with
  | nil => simp [trigits]
  | append_singleton us u ih =>
    rw [← List.append_assoc, trigits_concat, trigits_concat, ih, List.length_append, List.length_singleton]
    ring

theorem val_append {m n : Nat} (a : Word m) (b : Word n) : (a.append b).val = 3 ^ n * a.val + b.val := by
  rw [val_eq_trigits, append, trigits_append, b.length_eq]
  rfl

/-- The digits of a value are the trits it came from. -/
theorem digits_trigits (ts : List Trit) : digits ts.length (trigits ts) = ts := by
  induction ts using List.reverseRecOn with
  | nil => rfl
  | append_singleton ts t ih =>
    have hquot : (3 * trigits ts + t.toInt + 1) / 3 = trigits ts := by
      rcases t.toInt_cases with h | h | h <;> omega
    rw [trigits_concat, List.length_append, List.length_singleton, digits, hquot, ih, Trit.ofSign_balanced]

/-- A word is the word of its value. -/
@[simp] theorem ofInt_val (w : Word L) : ofInt L w.val = w := by
  obtain ⟨ts, rfl⟩ := w
  unfold ofInt
  congr 1
  exact digits_trigits ts

theorem val_injective {a b : Word L} (h : a.val = b.val) : a = b := by
  rw [← ofInt_val a, h, ofInt_val]

/-- `H_L` by Horner's scheme: one more trit triples it and adds 1. -/
theorem halfRange_succ (k : Nat) : halfRange (k + 1) = 3 * halfRange k + 1 := by
  have hodd : (3 : Int) ^ k % 2 = 1 := by
    induction k with
    | zero => rfl
    | succ k ih => rw [pow_succ]; omega
  unfold halfRange
  rw [pow_succ]
  omega

theorem trigits_digits {k : Nat} {n : Int} (hlo : -halfRange k ≤ n) (hhi : n ≤ halfRange k) :
    trigits (digits k n) = n := by
  induction k generalizing n with
  | zero =>
    have hzero : halfRange 0 = 0 := rfl
    have : n = 0 := by omega
    simp [this, digits, trigits]
  | succ k ih =>
    rw [halfRange_succ] at hlo hhi
    rw [digits, trigits_concat, ih (by omega) (by omega), Trit.toInt_ofSign_balanced]
    omega

/-- The word of a number in range has that value. -/
theorem val_ofInt {n : Int} (hlo : -halfRange L ≤ n) (hhi : n ≤ halfRange L) : (ofInt L n).val = n := by
  unfold ofInt
  exact trigits_digits hlo hhi

/-- The value of an address by its trits. -/
theorem val_five (a : Word 5) :
    a.val = 81 * (a.get 1).toInt + 27 * (a.get 2).toInt + 9 * (a.get 3).toInt + 3 * (a.get 4).toInt +
      (a.get 5).toInt := by
  obtain ⟨ts, hts⟩ := a
  obtain ⟨a₁, a₂, a₃, a₄, a₅, rfl⟩ : ∃ a₁ a₂ a₃ a₄ a₅, ts = [a₁, a₂, a₃, a₄, a₅] := by
    match ts, hts with
    | [a₁, a₂, a₃, a₄, a₅], _ => exact ⟨a₁, a₂, a₃, a₄, a₅, rfl⟩
  change 3 * (3 * (3 * (3 * (3 * 0 + a₁.toInt) + a₂.toInt) + a₃.toInt) + a₄.toInt) + a₅.toInt =
    81 * a₁.toInt + 27 * a₂.toInt + 9 * a₃.toInt + 3 * a₄.toInt + a₅.toInt
  ring

/-- Keeping the low `n` trits is taking the last `n` positions. -/
theorem resize_eq_slice {n : Nat} (w : Word L) (h : n ≤ L) : w.resize n = w.slice (L - n + 1) n :=
  ext_get fun i h1 h2 => by
    rw [get_resize, get_slice, if_pos ⟨h1, h2⟩, if_pos ⟨h1, h2⟩]
    congr 1
    omega

/-- A detour through a longer word keeps the low `k` trits. -/
theorem resize_resize {n k : Nat} (w : Word L) (h : k ≤ n) : (w.resize n).resize k = w.resize k :=
  ext_get fun i h1 h2 => by
    rw [get_resize, get_resize, get_resize, if_pos ⟨h1, h2⟩, if_pos (by omega), if_pos ⟨h1, h2⟩]
    congr 1
    omega

/-- A long word is made of its two halves. -/
@[simp] theorem long_slices (w : Word 18) : long (w.slice 1 9) (w.slice 10 9) = w :=
  ext_get fun i h1 h2 => by
    rw [get_long, get_slice, get_slice]
    split
    · rw [if_pos ⟨h1, by omega⟩]; congr 1; omega
    · rw [if_pos (by omega)]; congr 1; omega

end Word

/-- Settles O25: position by position, and the value from the nine zeros appended below a short word. -/
theorem operandDelivery : Obligations.OperandDelivery := by
  refine ⟨fun w i _ _ => RawWord.get_to18_short w i, RawWord.to18_long, fun w => ?_, fun w => ?_, fun w => ?_⟩
  · exact Word.resize_eq_slice w (by omega)
  · exact Word.resize_eq_slice w (by omega)
  · calc (RawWord.short w).to18.val = 3 ^ 9 * w.val + (Word.zero 9).val := Word.val_append w (Word.zero 9)
      _ = 19683 * w.val := by rw [Word.val_zero, add_zero]; rfl

end Sys2Proof

/-! ### FRAM addresses (spec 20_memory.md R71 to R76) -/

namespace Sys2Proof.Machine

/-- The weighted sum of `row` never falls below 0, so that `toNat` loses nothing (R71). -/
theorem row_eq (a : Word 5) :
    (row a : Int) = 40 + 27 * (a.get 1).toInt + 9 * (a.get 2).toInt + 3 * (a.get 3).toInt + (a.get 4).toInt := by
  have h1 := (a.get 1).toInt_cases
  have h2 := (a.get 2).toInt_cases
  have h3 := (a.get 3).toInt_cases
  have h4 := (a.get 4).toInt_cases
  unfold row
  omega

/-- An address's value holds its row and its zone. -/
theorem val_eq_row (a : Word 5) : a.val = 3 * ((row a : Int) - 40) + (a.get 5).toInt := by
  rw [Word.val_five, row_eq]
  ring

theorem toInt_get_five {a : Word 5} (h : a.get 5 ≠ .neg) : (a.get 5).toInt = page a := by
  unfold page
  cases h5 : a.get 5 with
  | neg => exact absurd h5 h
  | zero => rfl
  | pos => rfl

/-- The value of a short address by its page and row. -/
theorem val_of_short {a : Word 5} (h : a.get 5 ≠ .neg) : a.val = 3 * ((row a : Int) - 40) + page a := by
  rw [val_eq_row, toInt_get_five h]

/-- An address is short with page `p` and row `r` exactly when its value is `3(r - 40) + p`. -/
theorem short_iff_val {a : Word 5} {p r : Nat} (hp : p < 2) :
    a.get 5 ≠ .neg ∧ page a = p ∧ row a = r ↔ a.val = 3 * ((r : Int) - 40) + p := by
  constructor
  · rintro ⟨hshort, rfl, rfl⟩
    exact val_of_short hshort
  · intro hval
    rw [val_eq_row] at hval
    have hzone : a.get 5 ≠ .neg := by
      intro h
      rw [h, Trit.toInt] at hval
      omega
    rw [toInt_get_five hzone] at hval
    have := page_le a
    exact ⟨hzone, by omega, by omega⟩

/-- The value of a short address is in the range of five trits, so the address exists. -/
theorem val_ofInt_short {p r : Nat} (hp : p < 2) (hr : r < 81) :
    (Word.ofInt 5 (3 * ((r : Int) - 40) + p)).val = 3 * ((r : Int) - 40) + p := by
  have hrange : halfRange 5 = 121 := rfl
  exact Word.val_ofInt (by omega) (by omega)

/-- Settles O23: a short address is the word of the value its page and row make. -/
theorem rowDecodeReachesEveryRowOnce : Obligations.RowDecodeReachesEveryRowOnce := by
  refine ⟨fun a => ⟨row_eq a, row_le a⟩, fun p r hp hr => ?_⟩
  refine ⟨Word.ofInt 5 (3 * ((r : Int) - 40) + p), (short_iff_val hp).mpr (val_ofInt_short hp hr), fun a ha => ?_⟩
  rw [← (short_iff_val hp).mp ha, Word.ofInt_val]

/-- `++++-` is the one long address of row 80 (R74). -/
theorem long_row80_iff (a : Word 5) :
    a.get 5 = .neg ∧ row a = 80 ↔ a = ⟨[.pos, .pos, .pos, .pos, .neg], rfl⟩ := by
  constructor
  · rintro ⟨hneg, hrow⟩
    apply Word.val_injective
    rw [val_eq_row, hneg, hrow]
    rfl
  · rintro rfl
    exact ⟨rfl, rfl⟩

theorem accessible_iff (a : Word 5) : accessible a ↔ a ≠ ⟨[.pos, .pos, .pos, .pos, .neg], rfl⟩ := by
  rw [Ne, ← long_row80_iff, not_and]

/-- An arm that reads its operand at `++++-` is refused, whatever it does after it (41_cycle.md R208). -/
theorem withOperand_refused {a : Word 5} {m : Trit} {s : State} (h : ¬accessible (s.ea a m))
    (k : RawWord → StepOutcome State) : withOperand a m s k = .refused .longAccessRow80 := by
  obtain ⟨hneg, hrow⟩ := Classical.not_imp.mp h
  rw [withOperand, framLoad_error.mpr ⟨hneg, not_not.mp hrow, rfl⟩, orRefuse]

/-- An arm that stores at `++++-` is refused, whatever it does after it (41_cycle.md R208). -/
theorem storeAndThen_refused {L : Nat} {a : Word 5} (h : ¬accessible a) (v : Word L) (s : State)
    (k : State → StepOutcome State) : storeAndThen a v s k = .refused .longAccessRow80 := by
  obtain ⟨hneg, hrow⟩ := Classical.not_imp.mp h
  rw [storeAndThen, framStore_error.mpr ⟨hneg, not_not.mp hrow, rfl⟩, orRefuse]

/-- Settles O26: thirteen of the arms read an operand there and four store there. -/
theorem longAccessAtRow80IsRefused : Obligations.LongAccessAtRow80IsRefused := by
  refine ⟨accessible_iff, fun a m s ha i hi => ?_⟩
  have hrow80 : ¬accessible (s.ea a m) := fun h => (accessible_iff _).mp h ha
  cases i with
  | lds | add | sub | xor | ldr | hlt | mul | mula | mulb | ldf | lfc | adf | shf =>
    obtain ⟨rfl, rfl⟩ : _ = a ∧ _ = m := by simpa using hi
    exact withOperand_refused hrow80 _
  | stc | stf | sts | nrm =>
    obtain ⟨rfl, rfl⟩ : _ = a ∧ _ = m := by simpa using hi
    simp only [exec, execStc, execStf, execSts, execNrm, storeAndThen_refused hrow80]
  | bp | bz | bn | jmp | f2d | io | d2f | rsv11 | rsv12 | rsv13 => simp at hi

/-! ### Rows of FRAM and DRUM (spec 20_memory.md R77 to R86) -/

/-- Rows of either page have their own index. -/
theorem framIndex_inj {p r p' r' : Nat} (hr : r < 81) (hr' : r' < 81) :
    framIndex p r = framIndex p' r' ↔ p = p' ∧ r = r' := by
  unfold framIndex
  omega

/-- Reading a FRAM row after a row write. -/
theorem framRow_setFramRow {fram : Memory} {p r p' r' : Nat} {w : Word 9} (h : fram.wf 162 = true) (hr : r < 81)
    (hr' : r' < 81) :
    framRow (setFramRow fram p r w) p' r' = if p' = p ∧ r' = r then w else framRow fram p' r' := by
  rw [framRow, setFramRow, Memory.read_write h]
  simp only [framIndex_inj hr' hr, framRow]

theorem setFramRow_wf {fram : Memory} {p r : Nat} {w : Word 9} (h : fram.wf 162 = true) (hp : p < 2) (hr : r < 81) :
    (setFramRow fram p r w).wf 162 = true :=
  Memory.wf_write h (by unfold framIndex; omega)

/-- Rows of every zone have their own index. -/
theorem drumIndex_inj {z i z' i' : Nat} (hi : i < 54) (hi' : i' < 54) :
    drumIndex z i = drumIndex z' i' ↔ z = z' ∧ i = i' := by
  unfold drumIndex
  omega

/-- Reading a DRUM row after a drum store. -/
theorem drumRow_drumStore {drum : Memory} {z : Word 4} {z' i i' : Nat} {w : Word 9} (h : drum.wf 1944 = true)
    (hi : i < 54) (hi' : i' < 54) :
    drumRow (drumStore drum z i w) z' i' = if z' = zone z ∧ i' = i then w else drumRow drum z' i' := by
  have hdrow : drow i = i := by unfold drow; omega
  rw [drumRow, drumStore, hdrow, Memory.read_write h]
  simp only [drumIndex_inj hi' hi, drumRow]

theorem drumLoad_eq (drum : Memory) (z : Word 4) {i : Nat} (hi : i < 54) :
    drumLoad drum z i = drumRow drum (zone z) i := by
  have hdrow : drow i = i := by unfold drow; omega
  rw [drumLoad, hdrow]

/-- Canonical FRAMs that agree on every row of both pages are equal. -/
theorem fram_ext {fram fram' : Memory} (h : fram.wf 162 = true) (h' : fram'.wf 162 = true)
    (hrows : ∀ p r, p < 2 → r < 81 → framRow fram p r = framRow fram' p r) : fram = fram' := by
  refine Memory.ext_read h h' fun k => ?_
  by_cases hk : k < 162
  · have hindex : framIndex (k / 81) (k % 81) = k := by unfold framIndex; omega
    have hrow := hrows (k / 81) (k % 81) (by omega) (by omega)
    rwa [framRow, framRow, hindex] at hrow
  · rw [Memory.read_beyond h (by omega), Memory.read_beyond h' (by omega)]

/-- Settles O53, from the two clamps of R85. -/
theorem drumDecodeClamps : Obligations.DrumDecodeClamps := by
  constructor
  · intro z
    unfold zone
    omega
  · intro i
    unfold drow
    omega

/-! ### FRAM loads and stores (spec 20_memory.md R78 to R82) -/

/-- Settles O24, from the two cases of FramLoad. -/
theorem framLoadReadsOneOrTwoRows : Obligations.FramLoadReadsOneOrTwoRows := by
  intro fram a
  refine ⟨fun h => ?_, fun h => ?_, fun h hrow => ?_⟩
  · have hpage : page a = 1 := by rw [page, if_pos h]
    exact framLoad_ok.mpr (.inr ⟨by simp [h], by rw [hpage]⟩)
  · have hpage : page a = 0 := by rw [page, if_neg (by simp [h])]
    exact framLoad_ok.mpr (.inr ⟨by simp [h], by rw [hpage]⟩)
  · exact ⟨_, framLoad_ok.mpr (.inl ⟨h, hrow, rfl⟩), Word.slice_long_high _ _, Word.slice_long_low _ _⟩

/-- The low nine trits of a value are the low half of its 18-trit form. -/
theorem slice_low_resize {L : Nat} (v : Word L) : (v.resize 18).slice 10 9 = v.resize 9 := by
  rw [← Word.resize_resize v (show 9 ≤ 18 by omega)]
  exact (Word.resize_eq_slice (v.resize 18) (by omega)).symm

/-- The rows a successful store leaves (R81). -/
theorem framStore_rows {L : Nat} {fram fram' : Memory} {a : Word 5} {v : Word L} (hwf : fram.wf 162 = true)
    (hs : framStore fram a v = .ok fram') : rowsAfterStore fram fram' a (v.resize 18) := by
  have hle := row_le a
  rcases framStore_ok.mp hs with ⟨hneg, hrow, rfl⟩ | ⟨hshort, rfl⟩
  · have hfirst {w : Word 9} : (setFramRow fram 0 (row a) w).wf 162 = true := setFramRow_wf hwf (by omega) (by omega)
    refine ⟨fun h => absurd hneg h, fun _ => ⟨?_, ?_, fun p r _ hr hne => ?_⟩⟩
    · rw [framRow_setFramRow hfirst (by omega) (by omega), if_neg (by omega),
        framRow_setFramRow hwf (by omega) (by omega), if_pos ⟨rfl, rfl⟩]
    · rw [framRow_setFramRow hfirst (by omega) (by omega), if_pos ⟨rfl, rfl⟩]
    · rw [framRow_setFramRow hfirst (by omega) hr, if_neg (by omega), framRow_setFramRow hwf (by omega) hr,
        if_neg (by omega)]
  · refine ⟨fun _ => ⟨?_, fun p r _ hr hne => ?_⟩, fun h => absurd h hshort⟩
    · rw [framRow_setFramRow hwf (by omega) (by omega), if_pos ⟨rfl, rfl⟩, slice_low_resize]
    · rw [framRow_setFramRow hwf (by omega) hr, if_neg hne]

/-- Settles O27: an accessible store succeeds and leaves the rows of `framStore_rows`. -/
theorem framStoreWritesItsRowsOnly : Obligations.FramStoreWritesItsRowsOnly := by
  intro L fram a v hwf hacc
  obtain ⟨fram', hs⟩ := framStore_of_accessible (v := v) (fram := fram) hacc
  exact ⟨fram', hs, framStore_wf hwf hs, framStore_rows hwf hs⟩

/-- A load from a short address after a store there delivers the low half. -/
theorem framLoad_framStore_short {L : Nat} {fram fram' : Memory} {a : Word 5} {v : Word L} (hwf : fram.wf 162 = true)
    (hs : framStore fram a v = .ok fram') (hshort : a.get 5 ≠ .neg) :
    framLoad fram' a = .ok (.short (v.resize 9)) := by
  obtain ⟨hrows, -⟩ := framStore_rows hwf hs
  obtain ⟨hrow, -⟩ := hrows hshort
  exact framLoad_ok.mpr (.inr ⟨hshort, by rw [hrow, slice_low_resize]⟩)

/-- A load from a long address after a store there delivers both halves. -/
theorem framLoad_framStore_long {L : Nat} {fram fram' : Memory} {a : Word 5} {v : Word L} (hwf : fram.wf 162 = true)
    (hs : framStore fram a v = .ok fram') (hacc : accessible a) (hneg : a.get 5 = .neg) :
    framLoad fram' a = .ok (.long (v.resize 18)) := by
  obtain ⟨-, hrows⟩ := framStore_rows hwf hs
  obtain ⟨hhigh, hlow, -⟩ := hrows hneg
  exact framLoad_ok.mpr (.inl ⟨hneg, hacc hneg, by rw [hhigh, hlow, Word.long_slices]⟩)

/-- Settles O28: at each width the load delivers the stored halves, and a value no longer than the delivered word comes
back whole. -/
theorem storeThenLoad : Obligations.StoreThenLoad := by
  intro fram a hwf hacc
  by_cases hneg : a.get 5 = .neg
  · refine ⟨fun v => ?_, fun v => ?_⟩ <;> obtain ⟨fram', hs⟩ := framStore_of_accessible (v := v) (fram := fram) hacc
    · exact ⟨fram', _, hs, framLoad_framStore_long hwf hs hacc hneg,
        (Word.resize_resize v (by omega)).trans v.resize_self⟩
    · exact ⟨fram', _, hs, framLoad_framStore_long hwf hs hacc hneg, fun _ => v.resize_self, fun h => absurd hneg h⟩
  · refine ⟨fun v => ?_, fun v => ?_⟩ <;> obtain ⟨fram', hs⟩ := framStore_of_accessible (v := v) (fram := fram) hacc
    · exact ⟨fram', _, hs, framLoad_framStore_short hwf hs hneg,
        (Word.resize_resize v (by omega)).trans v.resize_self⟩
    · exact ⟨fram', _, hs, framLoad_framStore_short hwf hs hneg, fun h => absurd h hneg,
        fun _ => congrArg Word.atHigh (Word.resize_eq_slice v (by omega))⟩

/-- Settles O21: the row a short STS leaves is the one the fetch reads. -/
theorem storedWordIsFetched : Obligations.StoredWordIsFetched := by
  rintro a m s ⟨hwf, -⟩ hshort
  obtain ⟨fram', hs⟩ := framStore_of_accessible (v := s.S) (fram := s.fram) fun h => absurd h hshort
  obtain ⟨hrows, -⟩ := framStore_rows hwf hs
  obtain ⟨hrow, -⟩ := hrows hshort
  refine ⟨((s.setFram fram').setW s.S.sgn).setC (nextAddress s.C), ?_, fetchWord_ok.mpr ⟨hshort, ?_⟩⟩
  · rw [exec, execSts, storeAndThen_ok hs]
    rfl
  · simpa using hrow.symm

/-! ### The block transfer (spec 20_memory.md R87 to R90) -/

/-- From page 0 the next address is page 1 of the same row (41_cycle.md R213). -/
theorem nextAddress_of_page_zero {c : Word 5} {r : Nat} (h : c.get 5 ≠ .neg ∧ page c = 0 ∧ row c = r) :
    (nextAddress c).get 5 ≠ .neg ∧ page (nextAddress c) = 1 ∧ row (nextAddress c) = r := by
  have hr : r < 81 := by have := row_le c; omega
  have hsucc : c.val + 1 = 3 * ((r : Int) - 40) + (1 : Nat) := by
    rw [(short_iff_val (by omega)).mp h]
    omega
  have hnext := (short_iff_val (by omega)).mpr (val_ofInt_short (show 1 < 2 by omega) hr)
  rw [← hsucc] at hnext
  rwa [nextAddress, if_neg hnext.1]

/-- From page 1, before the last row, the next address is page 0 of the next row: the long address between them is
skipped (41_cycle.md R213). -/
theorem nextAddress_of_page_one {c : Word 5} {r : Nat} (h : c.get 5 ≠ .neg ∧ page c = 1 ∧ row c = r) (hr : r < 80) :
    (nextAddress c).get 5 ≠ .neg ∧ page (nextAddress c) = 0 ∧ row (nextAddress c) = r + 1 := by
  have hrange : halfRange 5 = 121 := rfl
  have hc := (short_iff_val (by omega)).mp h
  have hlong : (Word.ofInt 5 (c.val + 1)).val = c.val + 1 := Word.val_ofInt (by omega) (by omega)
  have hneg : (Word.ofInt 5 (c.val + 1)).get 5 = .neg := by
    apply Trit.toInt_injective
    have := val_eq_row (Word.ofInt 5 (c.val + 1))
    have := ((Word.ofInt 5 (c.val + 1)).get 5).toInt_cases
    rw [Trit.toInt]
    omega
  have hsucc : c.val + 1 + 1 = 3 * (((r + 1 : Nat) : Int) - 40) + (0 : Nat) := by omega
  rw [nextAddress, if_pos hneg, hlong, hsucc]
  exact (short_iff_val (by omega)).mpr (val_ofInt_short (by omega) (by omega))

/-- The cursor of iteration `i` of a transfer with effective address `a` (R87). -/
abbrev cursor (a : Word 5) (i : Nat) : Word 5 := nextAddress^[i] (transferStart a)

theorem cursor_succ (a : Word 5) (i : Nat) : cursor a (i + 1) = nextAddress (cursor a i) :=
  Function.iterate_succ_apply' ..

theorem thirdBase_eq (a : Word 5) : (thirdBase a : Int) = 27 * ((a.get 1).toInt + 1) := by
  have := (a.get 1).toInt_cases
  unfold thirdBase
  omega

theorem thirdBase_le (a : Word 5) : thirdBase a ≤ 54 := by
  have := thirdBase_eq a
  have := (a.get 1).toInt_cases
  omega

/-- A transfer starts on page 0 of the lowest row of its third (R87). -/
theorem transferStart_short (a : Word 5) :
    (transferStart a).get 5 ≠ .neg ∧ page (transferStart a) = 0 ∧ row (transferStart a) = thirdBase a := by
  have hneg : Trit.neg.toInt = -1 := rfl
  have hrow : (row (transferStart a) : Int) = 40 + 27 * (a.get 1).toInt + 9 * -1 + 3 * -1 + -1 := by
    rw [row_eq]
    simp [transferStart, hneg]
  have hbase := thirdBase_eq a
  exact ⟨by simp [transferStart], by simp [page, transferStart], by omega⟩

/-- Settles O54, by induction on the iteration: an even cursor steps to the other page, an odd one to the next row. -/
theorem transferCursorWalksTheThird : Obligations.TransferCursorWalksTheThird := by
  intro a i hi
  induction i with
  | zero => exact transferStart_short a
  | succ i ih =>
    have hbase := thirdBase_le a
    have hcur := ih (by omega)
    change (cursor a (i + 1)).get 5 ≠ .neg ∧ page (cursor a (i + 1)) = _ ∧ row (cursor a (i + 1)) = _
    rw [cursor_succ]
    rcases Nat.mod_two_eq_zero_or_one i with hpar | hpar <;> rw [hpar] at hcur
    · rw [show (i + 1) % 2 = 1 by omega, show (i + 1) / 2 = i / 2 by omega]
      exact nextAddress_of_page_zero hcur
    · rw [show (i + 1) % 2 = 0 by omega, show (i + 1) / 2 = i / 2 + 1 by omega]
      exact nextAddress_of_page_one hcur (show thirdBase a + i / 2 < 80 by omega)

/-- The word of FRAM that iteration `i` of a transfer with `a` works on: page `i mod 2` of the third's row `i / 2`. -/
theorem cursor_page_row (a : Word 5) {i : Nat} (hi : i < 54) :
    page (cursor a i) = i % 2 ∧ row (cursor a i) = thirdBase a + i / 2 := by
  obtain ⟨-, hpage, hrow⟩ := transferCursorWalksTheThird a i hi
  exact ⟨hpage, hrow⟩

/-- A transfer to DRUM with `n` words still to go leaves every row but those of the zone from word `i` on. -/
theorem drumRow_framToDrumFrom_other {a : Word 5} {z : Word 4} {fram drum : Memory} {n i z' j : Nat}
    (hwf : drum.wf 1944 = true) (hn : i + n ≤ 54) (hj : j < 54) (hother : z' = zone z → j < i) :
    drumRow (framToDrumFrom fram z n i (cursor a i) drum) z' j = drumRow drum z' j := by
  induction n generalizing i drum with
  | zero => rfl
  | succ n ih =>
    rw [framToDrumFrom, ← cursor_succ, ih (drumStore_wf hwf) (by omega) (by omega),
      drumRow_drumStore hwf (by omega) hj, if_neg (by omega)]

/-- A transfer to DRUM puts each word of the third into its row of the zone (R88). -/
theorem drumRow_framToDrumFrom {a : Word 5} {z : Word 4} {fram drum : Memory} {n i j : Nat}
    (hwf : drum.wf 1944 = true) (hn : i + n ≤ 54) (hij : i ≤ j) (hj : j < i + n) :
    drumRow (framToDrumFrom fram z n i (cursor a i) drum) (zone z) j =
      framRow fram (j % 2) (thirdBase a + j / 2) := by
  induction n generalizing i drum with
  | zero => omega
  | succ n ih =>
    rw [framToDrumFrom, ← cursor_succ]
    rcases hij.eq_or_lt with rfl | hlt
    · obtain ⟨hpage, hrow⟩ := cursor_page_row a (i := i) (by omega)
      rw [drumRow_framToDrumFrom_other (drumStore_wf hwf) (by omega) (by omega) (by omega),
        drumRow_drumStore hwf (by omega) (by omega), if_pos ⟨rfl, rfl⟩, hpage, hrow]
    · exact ih (drumStore_wf hwf) (by omega) (by omega) (by omega)

/-- A transfer to FRAM with `n` words still to go leaves every row that is no word of the third from word `i` on. -/
theorem framRow_drumToFramFrom_other {a : Word 5} {z : Word 4} {fram drum : Memory} {n i p r : Nat}
    (hwf : fram.wf 162 = true) (hn : i + n ≤ 54) (hr : r < 81)
    (hother : ∀ j, i ≤ j → j < i + n → ¬(p = j % 2 ∧ r = thirdBase a + j / 2)) :
    framRow (drumToFramFrom drum z n i (cursor a i) fram) p r = framRow fram p r := by
  induction n generalizing i fram with
  | zero => rfl
  | succ n ih =>
    have hbase := thirdBase_le a
    obtain ⟨hpage, hrow⟩ := cursor_page_row a (i := i) (by omega)
    rw [drumToFramFrom, ← cursor_succ, hpage, hrow,
      ih (setFramRow_wf hwf (by omega) (by omega)) (by omega) fun j _ _ => hother j (by omega) (by omega),
      framRow_setFramRow hwf (by omega) hr, if_neg (hother i (by omega) (by omega))]

/-- A transfer to FRAM puts each row of the zone into its word of the third (R89). -/
theorem framRow_drumToFramFrom {a : Word 5} {z : Word 4} {fram drum : Memory} {n i j : Nat}
    (hwf : fram.wf 162 = true) (hn : i + n ≤ 54) (hij : i ≤ j) (hj : j < i + n) :
    framRow (drumToFramFrom drum z n i (cursor a i) fram) (j % 2) (thirdBase a + j / 2) =
      drumRow drum (zone z) j := by
  induction n generalizing i fram with
  | zero => omega
  | succ n ih =>
    have hbase := thirdBase_le a
    obtain ⟨hpage, hrow⟩ := cursor_page_row a (i := i) (by omega)
    have hnext : (setFramRow fram (i % 2) (thirdBase a + i / 2) (drumLoad drum z i)).wf 162 = true :=
      setFramRow_wf hwf (by omega) (by omega)
    rw [drumToFramFrom, ← cursor_succ, hpage, hrow]
    rcases hij.eq_or_lt with rfl | hlt
    · rw [framRow_drumToFramFrom_other hnext (by omega) (by omega) (fun k _ _ => by omega),
        framRow_setFramRow hwf (by omega) (by omega), if_pos ⟨rfl, rfl⟩, drumLoad_eq drum z (by omega)]
    · exact ih hnext (by omega) (by omega) (by omega)

/-- Word `i` of the third of `a` is in drum row `i` of the zone after fram_to_drum (R88). -/
theorem drumRow_framToDrum {a : Word 5} {fram drum : Memory} {i : Nat} (hwf : drum.wf 1944 = true) (hi : i < 54) :
    drumRow (framToDrum a fram drum) (zone (a.slice 2 4)) i = framRow fram (i % 2) (thirdBase a + i / 2) := by
  unfold framToDrum
  exact drumRow_framToDrumFrom (i := 0) hwf (by omega) (by omega) (by omega)

/-- Drum row `i` of the zone is in word `i` of the third of `a` after drum_to_fram (R89). -/
theorem framRow_drumToFram {a : Word 5} {fram drum : Memory} {i : Nat} (hwf : fram.wf 162 = true) (hi : i < 54) :
    framRow (drumToFram a fram drum) (i % 2) (thirdBase a + i / 2) = drumRow drum (zone (a.slice 2 4)) i := by
  unfold drumToFram
  exact framRow_drumToFramFrom (i := 0) hwf (by omega) (by omega) (by omega)

/-- drum_to_fram leaves every row outside the third of `a` (R89). -/
theorem framRow_drumToFram_outside {a : Word 5} {fram drum : Memory} {p r : Nat} (hwf : fram.wf 162 = true)
    (hr : r < 81) (hout : r < thirdBase a ∨ thirdBase a + 27 ≤ r) :
    framRow (drumToFram a fram drum) p r = framRow fram p r := by
  unfold drumToFram
  exact framRow_drumToFramFrom_other (i := 0) hwf (by omega) hr (fun j _ _ => by omega)

/-- To the drum and back from the same zone, word by word (R90). -/
theorem framRow_roundTrip {a a' : Word 5} {fram drum : Memory} {i : Nat} (hfram : fram.wf 162 = true)
    (hdrum : drum.wf 1944 = true) (hzone : a'.slice 2 4 = a.slice 2 4) (hi : i < 54) :
    framRow (drumToFram a' fram (framToDrum a fram drum)) (i % 2) (thirdBase a' + i / 2) =
      framRow fram (i % 2) (thirdBase a + i / 2) := by
  rw [framRow_drumToFram hfram hi, hzone, drumRow_framToDrum hdrum hi]

/-- Settles O57: the words of the third come back one by one, and every row is a word of the third or left alone. -/
theorem transferRoundTripReproducesTheThird : Obligations.TransferRoundTripReproducesTheThird := by
  intro a a' fram drum hfram hdrum hzone
  refine ⟨fun i hi => framRow_roundTrip hfram hdrum hzone hi, fun hthird => ?_⟩
  have hbase : thirdBase a' = thirdBase a := by rw [thirdBase, thirdBase, hthird]
  refine fram_ext (drumToFram_wf hfram) hfram fun p r hp hr => ?_
  by_cases hin : thirdBase a' ≤ r ∧ r < thirdBase a' + 27
  · have hword := framRow_roundTrip (i := 2 * (r - thirdBase a') + p) hfram hdrum hzone (by omega)
    rwa [← hbase, show (2 * (r - thirdBase a') + p) % 2 = p by omega,
      show thirdBase a' + (2 * (r - thirdBase a') + p) / 2 = r by omega] at hword
  · exact framRow_drumToFram_outside hfram hr (by omega)

end Sys2Proof.Machine

/-! ### Encoding (spec 30_encoding.md R111 to R119) -/

namespace Sys2Proof

/-- Settles O1: the encoder writes the three fields where the decoder reads them. -/
theorem decodeInvertsEncode : Obligations.DecodeInvertsEncode := decode_encode

/-! The fields of the decoded instruction are those of the word (R111, R114), whichever of the 27 codes it has. -/

theorem decodeFields_fields (o6 o7 o8 : Trit) (a : Word 5) (m : Trit) :
    (decodeFields o6 o7 o8 a m).address = a ∧ (decodeFields o6 o7 o8 a m).opcode = (o6, o7, o8) ∧
      (decodeFields o6 o7 o8 a m).modifier = m := by
  cases o6 <;> cases o7 <;> cases o8 <;> exact ⟨rfl, rfl, rfl⟩

theorem decode_fields (K : Word 9) :
    (decode K).address = K.slice 1 5 ∧ (decode K).opcode = (K.get 6, K.get 7, K.get 8) ∧
      (decode K).modifier = K.get 9 :=
  decodeFields_fields ..

/-- Positions 1 to 5 of an encoded word are the address field; `Laws.encodedFields` gives the other four. -/
theorem get_encode_address (i : Instr) {k : Int} (h : k ≤ 5) : (encode i).get k = i.address.get k :=
  (Word.get_append i.address _ k).trans (if_pos h)

/-- An encoded word is `K` if its three fields are those of `K`, since R111's fields cover all nine positions. -/
theorem encode_eq_of_fields {i : Instr} {K : Word 9} (haddr : i.address = K.slice 1 5)
    (hop : i.opcode = (K.get 6, K.get 7, K.get 8)) (hmod : i.modifier = K.get 9) : encode i = K := by
  obtain ⟨-, hop', hmod'⟩ := Laws.encodedFields i
  obtain ⟨h6, h7, h8⟩ : (encode i).get 6 = K.get 6 ∧ (encode i).get 7 = K.get 7 ∧
      (encode i).get 8 = K.get 8 := by
    simpa using hop'.trans hop
  refine Word.ext_get fun k h1 h9 => ?_
  by_cases haddress : k ≤ 5
  · rw [get_encode_address i haddress, haddr, Word.get_slice, if_pos ⟨h1, haddress⟩]
    congr 1
    omega
  · obtain rfl | rfl | rfl | rfl : k = 6 ∨ k = 7 ∨ k = 8 ∨ k = 9 := by omega
    · exact h6
    · exact h7
    · exact h8
    · exact hmod'.trans hmod

/-- Settles O2: decoding keeps the three fields, and they make up the word. -/
theorem encodeInvertsDecode : Obligations.EncodeInvertsDecode := by
  intro K
  obtain ⟨haddr, hop, hmod⟩ := decode_fields K
  exact encode_eq_of_fields haddr hop hmod

/-! The opcode value (R112). -/

/-- The number R114's table gives a code is the weighted sum of its pattern. -/
theorem code_eq_opcode_sum (i : Instr) :
    i.code = 9 * i.opcode.1.toInt + 3 * i.opcode.2.1.toInt + i.opcode.2.2.toInt := by
  cases i <;> rfl

theorem code_decode (K : Word 9) : (decode K).code = opcodeValue K := by
  obtain ⟨-, hop, -⟩ := decode_fields K
  rw [code_eq_opcode_sum, hop, opcodeValue]

theorem opcodeValue_mem_range (K : Word 9) : -13 ≤ opcodeValue K ∧ opcodeValue K ≤ 13 := by
  have h6 := (K.get 6).toInt_cases
  have h7 := (K.get 7).toInt_cases
  have h8 := (K.get 8).toInt_cases
  unfold opcodeValue
  omega

/-- Balanced ternary digits with the weights 9, 3, 1 are determined by their sum. -/
theorem Trit.weightedSum_injective {a b c a' b' c' : Trit}
    (h : 9 * a.toInt + 3 * b.toInt + c.toInt = 9 * a'.toInt + 3 * b'.toInt + c'.toInt) :
    a = a' ∧ b = b' ∧ c = c' := by
  have ha := a.toInt_cases
  have hb := b.toInt_cases
  have hc := c.toInt_cases
  have ha' := a'.toInt_cases
  have hb' := b'.toInt_cases
  have hc' := c'.toInt_cases
  have hcc : c.toInt = c'.toInt := by omega
  have hbb : b.toInt = b'.toInt := by omega
  have haa : a.toInt = a'.toInt := by omega
  exact ⟨toInt_injective haa, toInt_injective hbb, toInt_injective hcc⟩

/-- Settles O3, from the weighted sum of the three trits. -/
theorem opcodeIsTheWeightedSum : Obligations.OpcodeIsTheWeightedSum := by
  refine ⟨code_decode, fun K => ?_, fun K K' h => ?_⟩
  · rw [code_decode]
    exact opcodeValue_mem_range K
  · rw [code_decode, code_decode] at h
    exact Trit.weightedSum_injective h

theorem decode_of_encode {i : Instr} {K : Word 9} (h : encode i = K) : decode K = i := by
  rw [← h, decode_encode]

/-- Settles O4: each of the four words is the encoding of the instruction it stands for. -/
theorem writtenOutWordsDecode : Obligations.WrittenOutWordsDecode :=
  ⟨decode_of_encode rfl, decode_of_encode rfl, decode_of_encode rfl, decode_of_encode rfl⟩

/-! The trits of a word as a list, most significant first (00_scope.md R11). -/

theorem Word.trits_injective {L : Nat} : Function.Injective (Word.trits : Word L → List Trit) := by
  rintro ⟨ts, _⟩ ⟨us, _⟩ h
  cases h
  rfl

/-- The trits of a 9-trit word are those at its positions 1 to 9. -/
theorem Word.trits_nine (w : Word 9) :
    w.trits = [w.get 1, w.get 2, w.get 3, w.get 4, w.get 5, w.get 6, w.get 7, w.get 8, w.get 9] :=
  congrArg Word.trits (Word.ofFn_get w).symm

end Sys2Proof

/-! ### Program lines (spec 30_encoding.md R117) -/

namespace Sys2Proof.Machine

theorem isNonarySymbol_iff (c : Char) :
    isNonarySymbol c = true ↔ c ∈ ['W', 'X', 'Y', 'Z', '0', '1', '2', '3', '4'] := by
  rw [isNonarySymbol, List.contains_iff_mem]
  rfl

/-- The character written for two trits is in the alphabet, and the table reads it back as those two. -/
theorem symbolOfPair_spec (hi lo : Trit) :
    isNonarySymbol (symbolOfPair hi lo) = true ∧ nonaryPair (symbolOfPair hi lo) = (hi, lo) := by
  cases hi <;> cases lo <;> decide

theorem trits_wordOfLine {line : List Char} (hlen : line.length = 5) (hall : line.all isNonarySymbol = true) :
    (wordOfLine line).map Word.trits = some ((expandLine line).drop 1) := by
  rw [wordOfLine, dif_pos hlen, if_pos hall]
  rfl

theorem wordOfLine_eq_none_iff (line : List Char) :
    wordOfLine line = none ↔ line.length ≠ 5 ∨ line.all isNonarySymbol = false := by
  by_cases hlen : line.length = 5
  · by_cases hall : line.all isNonarySymbol = true
    · simp [wordOfLine, hlen, hall]
    · simp [wordOfLine, hlen, hall]
  · simp [wordOfLine, hlen]

theorem lineOfWord_all (w : Word 9) : (lineOfWord w).all isNonarySymbol = true := by
  simp only [lineOfWord, List.all_cons, List.all_nil, symbolOfPair_spec, Bool.and_self]

/-- The characters written for a word expand to its nine trits after the discarded 0. -/
theorem expandLine_lineOfWord (w : Word 9) : expandLine (lineOfWord w) = .zero :: w.trits := by
  simp only [lineOfWord, expandLine, symbolOfPair_spec, w.trits_nine]

theorem wordOfLine_lineOfWord (w : Word 9) : wordOfLine (lineOfWord w) = some w := by
  refine Option.map_injective Word.trits_injective ?_
  rw [trits_wordOfLine rfl (lineOfWord_all w), expandLine_lineOfWord]
  rfl

/-- Settles O6: acceptance, rejection, the nonary table, and the line written for each word. -/
theorem programLinesExpandToWords : Obligations.ProgramLinesExpandToWords :=
  ⟨fun _ _ _ _ _ hall => trits_wordOfLine rfl hall, fun line => (wordOfLine_eq_none_iff line).mpr,
    isNonarySymbol_iff, rfl, wordOfLine_lineOfWord⟩

end Sys2Proof.Machine

/-! ### Words as numbers modulo `3^L` (spec 00_scope.md R13, 40_alu.md R159)

A word of length `L` is determined by its value modulo `3^L`, and its value is the sum of its generic positions. Each
ALU function below is compared with `word_L` by these two facts: its positions are summed, and the sum is taken modulo
`3^L`. -/

namespace Sys2Proof

theorem Trit.ofSign_of_pos {n : Int} (h : 0 < n) : Trit.ofSign n = .pos := by
  rw [ofSign, if_neg (by omega), if_pos h]

theorem Trit.ofSign_of_neg {n : Int} (h : n < 0) : Trit.ofSign n = .neg := if_pos h

theorem Trit.ofSign_eq_zero_iff {n : Int} : Trit.ofSign n = .zero ↔ n = 0 := by
  constructor
  · intro h
    by_contra hne
    rcases Int.lt_or_gt_of_ne hne with hneg | hpos
    · cases (ofSign_of_neg hneg).symm.trans h
    · cases (ofSign_of_pos hpos).symm.trans h
  · rintro rfl
    rfl

theorem halfRange_nonneg (L : Nat) : 0 ≤ halfRange L := by
  induction L with
  | zero => decide
  | succ L ih => rw [Word.halfRange_succ]; omega

/-- `-H_L..H_L` holds `3^L` numbers. -/
theorem three_pow_eq (L : Nat) : (3 : Int) ^ L = 2 * halfRange L + 1 := by
  induction L with
  | zero => rfl
  | succ L ih => rw [pow_succ, ih, Word.halfRange_succ]; ring

theorem halfRange_mono {k n : Nat} (h : k ≤ n) : halfRange k ≤ halfRange n := by
  have hpow : (3 : Int) ^ k ≤ 3 ^ n := pow_le_pow_right₀ (by decide) h
  rw [three_pow_eq, three_pow_eq] at hpow
  omega

/-- Twice the length has room for the product of any two values. -/
theorem halfRange_mul_self_le (L : Nat) : halfRange L * halfRange L ≤ halfRange (2 * L) := by
  have hsq : (3 : Int) ^ (2 * L) = 3 ^ L * 3 ^ L := by rw [two_mul, pow_add]
  rw [three_pow_eq, three_pow_eq] at hsq
  nlinarith [halfRange_nonneg L]

namespace Word

variable {L : Nat}

/-! Range and uniqueness. -/

theorem abs_trigits_le (ts : List Trit) : |trigits ts| ≤ halfRange ts.length := by
  induction ts using List.reverseRecOn with
  | nil => decide
  | append_singleton ts t ih =>
    rw [trigits_concat, List.length_append, List.length_singleton, halfRange_succ]
    rw [abs_le] at ih ⊢
    rcases t.toInt_cases with h | h | h <;> omega

theorem abs_val_le (w : Word L) : |w.val| ≤ halfRange L := by
  have h := abs_trigits_le w.trits
  rwa [w.length_eq] at h

theorem val_ofInt_of_abs_le {n : Int} (h : |n| ≤ halfRange L) : (ofInt L n).val = n :=
  val_ofInt (abs_le.mp h).1 (abs_le.mp h).2

theorem trigits_digits_modEq (k : Nat) (n : Int) : trigits (digits k n) ≡ n [ZMOD 3 ^ k] := by
  induction k generalizing n with
  | zero => simp [Int.modEq_one]
  | succ k ih =>
    have hlow : n = 3 * ((n + 1) / 3) + ((n + 1) % 3 - 1) := by omega
    rw [digits, trigits_concat, Trit.toInt_ofSign_balanced, pow_succ']
    conv_rhs => rw [hlow]
    exact (ih _).mul_left'.add_right _

theorem val_ofInt_modEq (L : Nat) (n : Int) : (ofInt L n).val ≡ n [ZMOD 3 ^ L] := by
  unfold ofInt
  exact trigits_digits_modEq L n

/-- Two words of one length whose values agree modulo `3^L` are equal, since both values lie in `-H_L..H_L`. -/
theorem eq_of_val_modEq {a b : Word L} (h : a.val ≡ b.val [ZMOD 3 ^ L]) : a = b := by
  have ha := abs_le.mp (abs_val_le a)
  have hb := abs_le.mp (abs_val_le b)
  have hsmall : |b.val - a.val| < 3 ^ L := by
    rw [three_pow_eq, abs_lt]
    omega
  exact val_injective (sub_eq_zero.mp (Int.eq_zero_of_abs_lt_dvd h.dvd hsmall)).symm

theorem eq_ofInt_of_modEq {w : Word L} {n : Int} (h : w.val ≡ n [ZMOD 3 ^ L]) : w = ofInt L n :=
  eq_of_val_modEq (h.trans (val_ofInt_modEq L n).symm)

theorem ofInt_congr {n n' : Int} (h : n ≡ n' [ZMOD 3 ^ L]) : ofInt L n = ofInt L n' :=
  eq_ofInt_of_modEq ((val_ofInt_modEq L n).trans h)

/-! The value as the sum of the generic positions. -/

theorem getG_of_not_mem (w : Word L) {k : Int} (h : ¬(0 ≤ k ∧ k < L)) : w.getG k = .zero :=
  w.get_of_not_mem (by omega)

theorem getG_neg (w : Word L) (k : Int) : w.neg.getG k = (w.getG k).not := get_neg w _

theorem getG_shift (w : Word L) (d : Int) {k : Int} (h0 : 0 ≤ k) (hL : k < L) :
    (w.shift d).getG k = w.getG (k + d) := by
  rw [getG, get_shift, if_pos (by omega), getG]
  congr 1
  omega

theorem getG_resize {n : Nat} (w : Word L) {k : Int} (h0 : 0 ≤ k) (hn : k < n) :
    (w.resize n).getG k = w.getG k := by
  rw [getG, get_resize, if_pos (by omega), getG]
  congr 1
  omega

/-- The number the generic positions 0 to `n - 1` of a word hold (R12, R13). -/
def lowSum (w : Word L) (n : Nat) : Int := ∑ k ∈ Finset.range n, (w.getG k).toInt * 3 ^ k

theorem lowSum_succ (w : Word L) (n : Nat) : w.lowSum (n + 1) = w.lowSum n + (w.getG n).toInt * 3 ^ n :=
  Finset.sum_range_succ ..

theorem trigits_eq_sum (ts : List Trit) :
    trigits ts = ∑ k ∈ Finset.range ts.length, (ts.reverse.getD k .zero).toInt * 3 ^ k := by
  induction ts using List.reverseRecOn with
  | nil => rfl
  | append_singleton ts t ih =>
    rw [trigits_concat, ih, List.length_append, List.length_singleton, Finset.sum_range_succ',
      List.reverse_append, List.reverse_singleton, List.singleton_append, Finset.mul_sum]
    simp only [List.getD_cons_succ, List.getD_cons_zero, pow_succ, pow_zero, mul_one]
    congr 1
    exact Finset.sum_congr rfl fun _ _ => by ring

theorem getG_eq_getD_reverse (w : Word L) {k : Nat} (h : k < L) : w.getG k = w.trits.reverse.getD k .zero := by
  have hk : k < w.trits.length := by rw [w.length_eq]; exact h
  have hi : (L - k - 1 : Int).toNat = w.trits.length - 1 - k := by rw [w.length_eq]; omega
  rw [getG, get_eq_getD _ (by omega), hi, List.getD_eq_getElem?_getD, List.getD_eq_getElem?_getD,
    List.getElem?_reverse hk]

theorem val_eq_lowSum (w : Word L) : w.val = w.lowSum L := by
  rw [val_eq_trigits, trigits_eq_sum, w.length_eq]
  exact Finset.sum_congr rfl fun k hk => by rw [getG_eq_getD_reverse w (Finset.mem_range.mp hk)]

/-- R13's sum from the most significant end. -/
theorem val_eq_sum_get (w : Word L) :
    w.val = ∑ i ∈ Finset.range L, (w.get ((i : Int) + 1)).toInt * 3 ^ (L - 1 - i) := by
  rw [val_eq_lowSum, lowSum, ← Finset.sum_range_reflect]
  refine Finset.sum_congr rfl fun i hi => ?_
  rw [Finset.mem_range] at hi
  rw [getG, show (L : Int) - (L - 1 - i : Nat) = i + 1 by omega]

theorem lowSum_of_le (w : Word L) {n : Nat} (h : L ≤ n) : w.lowSum n = w.val := by
  induction n, h using Nat.le_induction with
  | base => exact w.val_eq_lowSum.symm
  | succ n hn ih => rw [lowSum_succ, ih, getG_of_not_mem w (by omega), Trit.toInt, zero_mul, add_zero]

/-- The positions from `n` up count multiples of `3^n`, at every length. -/
theorem lowSum_modEq_val (w : Word L) (n : Nat) : w.lowSum n ≡ w.val [ZMOD 3 ^ n] := by
  rw [← w.lowSum_of_le (Nat.le_add_left L n), Int.modEq_iff_dvd, lowSum, lowSum, Finset.sum_range_add,
    add_sub_cancel_left]
  exact Finset.dvd_sum fun k _ => (pow_dvd_pow 3 (Nat.le_add_right n k)).mul_left _

theorem lowSum_congr {m : Nat} {w : Word L} {v : Word m} {n : Nat}
    (h : ∀ k : Int, 0 ≤ k → k < n → w.getG k = v.getG k) : w.lowSum n = v.lowSum n :=
  Finset.sum_congr rfl fun k hk => by
    rw [h k (Int.natCast_nonneg k) (Int.ofNat_lt.mpr (Finset.mem_range.mp hk))]

/-- The lowest trit and the positions above it, moved down by one. -/
theorem lowSum_succ_low (w : Word L) (n : Nat) :
    w.lowSum (n + 1) =
      3 * (∑ k ∈ Finset.range n, (w.getG ((k : Int) + 1)).toInt * 3 ^ k) + (w.getG 0).toInt := by
  rw [lowSum, Finset.sum_range_succ', Finset.mul_sum, Nat.cast_zero, pow_zero, mul_one]
  congr 1
  refine Finset.sum_congr rfl fun k _ => ?_
  rw [Nat.cast_succ]
  ring

/-! What each ALU function does to the value. -/

/-- copy_resize keeps the value modulo `3^n` (40_alu.md R156). -/
theorem resize_eq_ofInt (n : Nat) (w : Word L) : w.resize n = ofInt n w.val := by
  refine eq_ofInt_of_modEq ?_
  rw [val_eq_lowSum, lowSum_congr fun k => w.getG_resize]
  exact w.lowSum_modEq_val n

theorem val_resize_of_le {n : Nat} (w : Word L) (h : L ≤ n) : (w.resize n).val = w.val := by
  rw [resize_eq_ofInt, val_ofInt_of_abs_le (w.abs_val_le.trans (halfRange_mono h))]

theorem resize_back {n : Nat} (w : Word L) (h : L ≤ n) : (w.resize n).resize L = w := by
  rw [resize_resize w h, resize_self]

theorem val_neg (w : Word L) : w.neg.val = -w.val := by
  simp only [val_eq_lowSum, lowSum, getG_neg, Trit.toInt_not, neg_mul, Finset.sum_neg_distrib]

/-- The ripple from position `k` adds what stands there and above to its carry, modulo the positions it covers: the full
adder's equation at each position (40_alu.md R146), the last carry dropped. -/
theorem trigits_rippleFrom_modEq (x y : Int → Trit) (n : Nat) (k : Int) (c : Trit) :
    trigits (rippleFrom x y n k c) ≡
      (∑ j ∈ Finset.range n, ((x (k + j)).toInt + (y (k + j)).toInt) * 3 ^ j) + c.toInt [ZMOD 3 ^ n] := by
  induction n generalizing k c with
  | zero => simp [Int.modEq_one]
  | succ n ih =>
    have hadd := fullAdd_sum (x k) (y k) c
    have hsum : (∑ j ∈ Finset.range (n + 1), ((x (k + j)).toInt + (y (k + j)).toInt) * 3 ^ j) + c.toInt =
        3 * ((∑ j ∈ Finset.range n, ((x (k + 1 + j)).toInt + (y (k + 1 + j)).toInt) * 3 ^ j) +
          (fullAdd (x k) (y k) c).2.toInt) + (fullAdd (x k) (y k) c).1.toInt := by
      have hterm : ∀ j : Nat, k + ((j + 1 : Nat) : Int) = k + 1 + j := fun j => by omega
      simp only [Finset.sum_range_succ', hterm, pow_succ', mul_left_comm _ (3 : Int), ← Finset.mul_sum]
      rw [Nat.cast_zero, add_zero, pow_zero, mul_one]
      omega
    rw [rippleFrom, trigits_concat, hsum, pow_succ']
    exact ((ih (k + 1) _).mul_left').add_right _

/-- Rippling at any length gives the low trits of the exact sum. -/
theorem rippleAdd_eq_ofInt {m n : Nat} (a : Word m) (b : Word n) : rippleAdd L a b = ofInt L (a.val + b.val) := by
  refine eq_ofInt_of_modEq ?_
  have hripple := trigits_rippleFrom_modEq a.getG b.getG L 0 .zero
  simp only [zero_add, add_mul, Finset.sum_add_distrib, Trit.toInt, add_zero] at hripple
  exact hripple.trans ((a.lowSum_modEq_val L).add (b.lowSum_modEq_val L))

/-- A right shift by one drops the lowest trit of the value. -/
theorem val_eq_shift_one (w : Word (L + 1)) : w.val = 3 * (w.shift 1).val + (w.getG 0).toInt := by
  have htop : (w.shift 1).getG L = .zero := by
    rw [getG_shift w 1 (by omega) (by omega), getG_of_not_mem w (by omega)]
  have hmoved : (w.shift 1).val = ∑ k ∈ Finset.range L, (w.getG ((k : Int) + 1)).toInt * 3 ^ k := by
    rw [val_eq_lowSum, lowSum_succ, htop, Trit.toInt, zero_mul, add_zero]
    refine Finset.sum_congr rfl fun k hk => ?_
    rw [Finset.mem_range] at hk
    rw [getG_shift w 1 (by omega) (by omega)]
  rw [hmoved, val_eq_lowSum, lowSum_succ_low]

/-- A left shift by one triples the value, the top trit lost. -/
theorem shift_neg_one_eq_ofInt (w : Word L) : w.shift (-1) = ofInt L (3 * w.val) := by
  refine eq_ofInt_of_modEq ?_
  cases L with
  | zero => exact Int.modEq_one
  | succ L =>
    have hlow : (w.shift (-1)).getG 0 = .zero := by
      rw [getG_shift w _ (by omega) (by omega), getG_of_not_mem w (by omega)]
    have htriple : (w.shift (-1)).val = 3 * w.lowSum L := by
      rw [val_eq_lowSum, lowSum_succ_low, hlow, Trit.toInt, add_zero, lowSum]
      congr 1
      refine Finset.sum_congr rfl fun k hk => ?_
      rw [Finset.mem_range] at hk
      rw [getG_shift w _ (by omega) (by omega), add_neg_cancel_right]
    rw [htriple, pow_succ']
    exact (w.lowSum_modEq_val L).mul_left'

theorem shift_neg_succ (w : Word L) (k : Nat) : w.shift (-((k + 1 : Nat) : Int)) = (w.shift (-(k : Int))).shift (-1) :=
  ext_get fun i h1 h2 => by
    rw [get_shift, get_shift, if_pos ⟨h1, h2⟩, if_pos ⟨h1, h2⟩, get_shift]
    split
    · congr 1; omega
    · exact get_of_not_mem w (by omega)

theorem shift_neg_eq_ofInt (w : Word L) (k : Nat) : w.shift (-(k : Int)) = ofInt L (3 ^ k * w.val) := by
  induction k with
  | zero => simp
  | succ k ih =>
    rw [shift_neg_succ, shift_neg_one_eq_ofInt, ih, pow_succ', mul_assoc]
    exact ofInt_congr ((val_ofInt_modEq L _).mul_left 3)

theorem shift_eq_zero (w : Word L) {d : Int} (h : (L : Int) ≤ |d|) : w.shift d = zero L :=
  ext_get fun i h1 h2 => by
    rw [get_shift, if_pos ⟨h1, h2⟩, get_zero]
    rcases le_abs.mp h with hd | hd
    · exact w.get_of_lt (by omega)
    · exact w.get_of_gt (by omega)

/-- One step of the shift-and-add: the three cases of the multiplier's trit add that trit's multiple of the shifted
multiplicand (40_alu.md R154). -/
theorem shiftAddMul_succ {n : Nat} (x : Word L) (b : Word n) (k : Nat) :
    shiftAddMul x b (k + 1) =
      ofInt L ((shiftAddMul x b k).val + (b.getG k).toInt * (x.shift (-(k : Int))).val) := by
  rw [shiftAddMul]
  cases b.getG k with
  | zero => simp [Trit.toInt]
  | pos => simp [Trit.toInt, rippleAdd_eq_ofInt]
  | neg => simp [Trit.toInt, rippleAdd_eq_ofInt, val_neg]

/-- After `k` trits of the multiplier, the shift-and-add holds the product with the number those `k` trits hold. -/
theorem shiftAddMul_eq_ofInt {n : Nat} (x : Word L) (b : Word n) (k : Nat) :
    shiftAddMul x b k = ofInt L (x.val * b.lowSum k) := by
  induction k with
  | zero => exact eq_ofInt_of_modEq (by rw [shiftAddMul, val_zero, lowSum, Finset.sum_range_zero, mul_zero])
  | succ k ih =>
    rw [shiftAddMul_succ, ih, shift_neg_eq_ofInt, lowSum_succ, mul_add, mul_left_comm, mul_comm x.val (3 ^ k)]
    exact ofInt_congr ((val_ofInt_modEq L _).add ((val_ofInt_modEq L _).mul_left _))

theorem abs_mul_val_le {m n : Nat} (a : Word m) (b : Word n) : |a.val * b.val| ≤ halfRange (2 * max m n) := by
  have ha : |a.val| ≤ halfRange (max m n) := a.abs_val_le.trans (halfRange_mono (le_max_left m n))
  have hb : |b.val| ≤ halfRange (max m n) := b.abs_val_le.trans (halfRange_mono (le_max_right m n))
  rw [abs_mul]
  exact (mul_le_mul ha hb (abs_nonneg _) (halfRange_nonneg _)).trans (halfRange_mul_self_le _)

/-! The sign (40_alu.md R160). -/

theorem trigits_cons (t : Trit) (ts : List Trit) : trigits (t :: ts) = 3 ^ ts.length * t.toInt + trigits ts := by
  rw [← List.singleton_append, trigits_append]
  simp [trigits]

/-- A nonzero leading trit outweighs all trits below it. -/
theorem firstNonzero_eq_ofSign (ts : List Trit) : firstNonzero ts = Trit.ofSign (trigits ts) := by
  induction ts with
  | nil => rfl
  | cons t ts ih =>
    have hrest := abs_le.mp (abs_trigits_le ts)
    have hpow := three_pow_eq ts.length
    have hpos := halfRange_nonneg ts.length
    rw [trigits_cons]
    cases t with
    | zero => simpa [firstNonzero, Trit.toInt] using ih
    | pos => exact (Trit.ofSign_of_pos (by simp only [Trit.toInt]; omega)).symm
    | neg => exact (Trit.ofSign_of_neg (by simp only [Trit.toInt]; omega)).symm

theorem sgn_eq_ofSign (w : Word L) : w.sgn = Trit.ofSign w.val := firstNonzero_eq_ofSign w.trits

theorem val_eq_zero_iff (w : Word L) : w.val = 0 ↔ w = zero L :=
  ⟨fun h => val_injective (h.trans val_zero.symm), fun h => h ▸ val_zero⟩

theorem firstNonzero_eq_getD {ts : List Trit} {n : Nat} (hn : ts.getD n .zero ≠ .zero)
    (hlow : ∀ k < n, ts.getD k .zero = .zero) : firstNonzero ts = ts.getD n .zero := by
  induction ts generalizing n with
  | nil => simp at hn
  | cons t ts ih =>
    cases n with
    | zero => exact if_neg hn
    | succ n =>
      have ht : t = .zero := hlow 0 n.succ_pos
      rw [firstNonzero, if_pos ht]
      exact ih hn fun k hk => hlow (k + 1) (Nat.succ_lt_succ hk)

theorem sgn_eq_get (w : Word L) {i : Int} (hi : w.get i ≠ .zero) (hlow : ∀ j, j < i → w.get j = .zero) :
    w.sgn = w.get i := by
  have h1 : 1 ≤ i := by
    by_contra h
    exact hi (w.get_of_lt (by omega))
  rw [w.get_eq_getD h1] at hi ⊢
  refine firstNonzero_eq_getD hi fun k hk => ?_
  have hk' := hlow (k + 1) (by omega)
  rwa [w.get_eq_getD (by omega), show ((k : Int) + 1 - 1).toNat = k by omega] at hk'

/-! Positions and slices (40_alu.md R148 to R150, R155). -/

theorem setS_of_not_mem (w : Word L) {i : Int} (t : Trit) (h : ¬(1 ≤ i ∧ i ≤ L)) : w.setS i t = w :=
  ext_get fun j h1 h2 => by rw [get_setS, if_neg (by omega)]

theorem getG_setG (w : Word L) (k j : Int) (t : Trit) :
    (w.setG k t).getG j = if 0 ≤ j ∧ j < L ∧ j = k then t else w.getG j := by
  rw [getG, setG, get_setS, getG]
  congr 1
  apply propext
  omega

theorem sliceGeneric_eq (w : Word L) {lo hi : Int} (hlo : 0 ≤ lo) (hle : lo ≤ hi) (hhi : hi < L) :
    w.sliceGeneric lo hi = (ofFn (hi - lo + 1).toNat fun i => w.getG (hi + 1 - i)).trits := by
  rw [sliceGeneric, if_neg (by omega), ofFn]
  refine List.map_congr_left fun k _ => ?_
  congr 1
  omega

theorem sliceSetun_eq (w : Word L) {first last : Int} (hfirst : 1 ≤ first) (hle : first ≤ last) (hlast : last ≤ L) :
    w.sliceSetun first last = (w.slice first.toNat (last - first + 1).toNat).trits := by
  rw [sliceSetun, if_neg (by omega), slice, ofFn]
  refine List.map_congr_left fun k _ => ?_
  congr 1
  omega

end Word

/-! Symbols (40_alu.md R161). -/

theorem Trit.ofSymbol_eq_some_iff {c : Char} {t : Trit} : Trit.ofSymbol c = some t ↔ t.toSymbol = c := by
  constructor
  · intro h
    unfold Trit.ofSymbol at h
    split_ifs at h
    all_goals
      obtain rfl := Option.some.inj h
      exact Eq.symm ‹_›
  · rintro rfl
    cases t <;> rfl

theorem tritsOfSymbols_cons_eq_some_iff {c : Char} {cs : List Char} {us : List Trit} :
    tritsOfSymbols (c :: cs) = some us ↔
      ∃ t ts, Trit.ofSymbol c = some t ∧ tritsOfSymbols cs = some ts ∧ t :: ts = us := by
  rw [tritsOfSymbols]
  cases Trit.ofSymbol c with
  | none => simp
  | some t =>
    cases tritsOfSymbols cs with
    | none => simp
    | some ts => simp

/-- Reading symbols and writing them are inverse to each other. -/
theorem tritsOfSymbols_eq_some_iff {cs : List Char} {ts : List Trit} :
    tritsOfSymbols cs = some ts ↔ ts.map Trit.toSymbol = cs := by
  induction cs generalizing ts with
  | nil => simp [tritsOfSymbols, eq_comm]
  | cons c cs ih =>
    simp only [tritsOfSymbols_cons_eq_some_iff, Trit.ofSymbol_eq_some_iff, ih, List.map_eq_cons_iff]
    exact ⟨fun ⟨t, us, ht, hus, hts⟩ => ⟨t, us, hts.symm, ht, hus⟩,
      fun ⟨t, us, hts, ht, hus⟩ => ⟨t, us, ht, hus, hts.symm⟩⟩

theorem symbolsToWord_toSymbols {L : Nat} (w : Word L) (h : L ≤ 32) : symbolsToWord w.toSymbols = some w.trits := by
  rw [symbolsToWord, Word.toSymbols, if_pos (by rw [List.length_map, w.length_eq]; exact h)]
  exact tritsOfSymbols_eq_some_iff.mpr rfl

theorem toSymbols_of_symbolsToWord {L : Nat} {cs : List Char} {w : Word L} (h : symbolsToWord cs = some w.trits) :
    w.toSymbols = cs := by
  rw [symbolsToWord] at h
  split at h
  · exact tritsOfSymbols_eq_some_iff.mp h
  · cases h

theorem Word.add_comm_trits {m n : Nat} (a : Word m) (b : Word n) : (a.add b).trits = (b.add a).trits := by
  rw [add, add, Nat.max_comm, Int.add_comm]

theorem Word.add_zero_trits {L : Nat} (a : Word L) : (a.add (zero L)).trits = a.trits := by
  rw [add, val_zero, Int.add_zero, max_self, ofInt_val]

/-! The statements. -/

/-- Settles O30, from the positional sums, the range, and that `word_L(n)` has the value n modulo `3^L`. -/
theorem integerConversions : Obligations.IntegerConversions := by
  refine ⟨fun L w => ⟨w.val_eq_sum_get, w.val_eq_lowSum, w.abs_val_le, w.ofInt_val⟩,
    fun L n => Word.val_ofInt_of_abs_le, fun L n => ?_⟩
  obtain ⟨k, hk⟩ := (Word.val_ofInt_modEq L n).dvd
  have hval : (Word.ofInt L n).val = n - 3 ^ L * k := by omega
  refine ⟨k, ⟨hval, hval ▸ Word.abs_val_le _⟩, fun k' ⟨hval', _⟩ => ?_⟩
  have hmul : (3 : Int) ^ L * k' = 3 ^ L * k := by omega
  exact mul_left_cancel₀ (pow_ne_zero L (by decide)) hmul

/-- Settles O31: the ripple is right at every length. -/
theorem rippleAddIsTheModularSum : Obligations.RippleAddIsTheModularSum :=
  Word.rippleAdd_eq_ofInt

/-- Settles O32: negation trit by trit negates the positional sum, and the ripple adds the negated value. -/
theorem rippleOfTheNegationSubtracts : Obligations.RippleOfTheNegationSubtracts := by
  refine ⟨fun w => ⟨fun i => ?_, w.val_neg⟩, fun a b => ?_⟩
  · rw [Word.get_neg, Trit.toInt_not]
  · rw [Word.rippleAdd_eq_ofInt, Word.val_neg, sub_eq_add_neg]

/-- Settles O33: the multiplicand widens without loss, all trits of the multiplier are used, and the product fits. -/
theorem shiftAndAddMultipliesExactly : Obligations.ShiftAndAddMultipliesExactly := by
  intro m n a b
  refine ⟨?_, Word.val_ofInt_of_abs_le (Word.abs_mul_val_le a b)⟩
  rw [Word.shiftAddMul_eq_ofInt, Word.val_resize_of_le a (by omega), Word.lowSum_of_le b (le_max_right m n)]

/-- Settles O34: the kept positions fix the value modulo `3^n`, and a longer word has room for it. -/
theorem resizeIsTheWordOfTheValue : Obligations.ResizeIsTheWordOfTheValue := fun n w =>
  ⟨w.resize_eq_ofInt n, fun _ => w.getG_resize, fun h => ⟨w.val_resize_of_le h, w.resize_back h⟩⟩

/-- Settles O35: the leading nonzero trit outweighs those below it. -/
theorem signIsTheSignOfTheValue : Obligations.SignIsTheSignOfTheValue := fun w =>
  ⟨w.sgn_eq_ofSign, by rw [w.sgn_eq_ofSign, Trit.ofSign_eq_zero_iff, w.val_eq_zero_iff], fun _ => w.sgn_eq_get⟩

/-- Settles O36: each shift by one moves the positional sum by one place, and a full shift reads outside the word. -/
theorem shiftScalesByPowersOfThree : Obligations.ShiftScalesByPowersOfThree := by
  refine ⟨fun {L} w hL => ?_, fun w => w.shift_neg_one_eq_ofInt, fun w d => w.shift_eq_zero⟩
  cases L with
  | zero => omega
  | succ L =>
    have hlowest := w.val_eq_shift_one
    rwa [Word.getG, sub_zero] at hlowest

/-- Settles O37, from what a read returns after a write and the trits of the two slices. -/
theorem positionAccessAndSlices : Obligations.PositionAccessAndSlices := by
  intro L w
  refine ⟨fun k t h => ⟨w.getG_of_not_mem h, w.setS_of_not_mem t (by omega)⟩, fun k t h0 hL => ⟨?_, fun j hj => ?_⟩,
    fun i t h => ⟨w.get_of_not_mem h, w.setS_of_not_mem t h⟩, fun i t h1 hL => ⟨?_, fun j hj => ?_⟩,
    fun lo hi h => if_pos h, fun lo hi hlo hle hhi => ⟨_, w.sliceGeneric_eq hlo hle hhi, fun k h0 hk => ?_⟩,
    fun first last h => if_pos h, fun first last => w.sliceSetun_eq⟩
  · rw [Word.getG_setG, if_pos ⟨h0, hL, rfl⟩]
  · rw [Word.getG_setG, if_neg (by omega)]
  · rw [Word.get_setS, if_pos ⟨h1, hL, rfl⟩]
  · rw [Word.get_setS, if_neg (by omega)]
  · rw [Word.getG, Word.get_ofFn, if_pos (by omega)]
    congr 1
    omega

/-- Settles O38, law by law from the trit tables, the integer, resize and symbol round trips, and `add`'s value. -/
theorem aluLawsOfTheSource : Obligations.AluLawsOfTheSource :=
  ⟨fun a b => by rw [← Trit.toInt_and, Trit.ofSign_toInt], Trit.not_not, fullAdd_sum,
    fun _ _ => Word.val_ofInt_of_abs_le, symbolsToWord_toSymbols, fun _ _ => toSymbols_of_symbolsToWord,
    fun _ w => w.resize_back, Word.add_comm_trits, Word.add_zero_trits⟩

end Sys2Proof

/-! ### Runs (spec 41_cycle.md R219, 70_reset_and_hazards.md R397) -/

namespace Sys2Proof.Machine

theorem step_of_stopped {s : State} (h : s.status ≠ .running) : step s = .fault (.stopped s.status) :=
  step_fault.mpr ⟨h, rfl⟩

/-- From a stopped state every run is over at once, whatever its cap (R200). -/
theorem hostRun_of_stopped {s : State} (h : s.status ≠ .running) (n : Nat) : hostRun n s = .stopped s := by
  cases n with
  | zero => rw [hostRun, if_neg h]
  | succ n => rw [hostRun, step_of_stopped h]

theorem hostRun_succ_of_next {s t : State} (h : step s = .next t) (n : Nat) : hostRun (n + 1) s = hostRun n t := by
  rw [hostRun, h]

theorem hostRun_succ_of_refused {s : State} {r : Refusal} (h : step s = .refused r) (n : Nat) :
    hostRun (n + 1) s = .refused r s := by
  rw [hostRun, h]

/-- A host register write keeps the status (R396). -/
theorem hostSet_status (w : HostWrite) (s : State) : (hostSet w s).status = s.status := by
  cases w <;> rfl

/-- A host word write keeps the status (R395). -/
theorem hostStore_status {a : Word 5} {w : Word 9} {s t : State} (h : hostStore a w s = .ok t) :
    t.status = s.status := by
  unfold hostStore at h
  split at h
  · cases h
    rfl
  · cases h

/-- Settles O9: the missing step, the host's writes, the run and reset, each by its own lemma. -/
theorem onlyResetLeavesAStop : Obligations.OnlyResetLeavesAStop := fun s h =>
  ⟨step_of_stopped h, fun w => hostSet_status w s, fun _ _ _ => hostStore_status, hostRun_of_stopped h, rfl⟩

/-- Settles O11, by induction on the shorter run: both runs take the same first step, and a stopped or refused state
ends both. -/
theorem runEndsAreFinal : Obligations.RunEndsAreFinal := by
  intro m n s
  induction m generalizing s with
  | zero =>
    rw [Nat.zero_add]
    by_cases hrun : s.status = .running
    · have hcap : hostRun 0 s = .capped s := if_pos hrun
      simp only [hcap, reduceCtorEq, false_implies, implies_true, true_and]
      rintro t ⟨⟩
      exact ⟨rfl, hrun⟩
    · simp only [hostRun_of_stopped hrun, reduceCtorEq, false_implies, implies_true, and_true]
      rintro t ⟨⟩
      exact ⟨rfl, hrun⟩
  | succ m ih =>
    rw [Nat.add_right_comm]
    cases hstep : step s with
    | next u =>
      rw [hostRun_succ_of_next hstep, hostRun_succ_of_next hstep]
      exact ih u
    | fault f =>
      obtain ⟨hstop, -⟩ := step_fault.mp hstep
      simp only [hostRun_of_stopped hstop, reduceCtorEq, false_implies, implies_true, and_true]
      rintro t ⟨⟩
      exact ⟨rfl, hstop⟩
    | refused r =>
      simp only [hostRun_succ_of_refused hstep, reduceCtorEq, false_implies, implies_true, true_and, and_true]
      rintro r' t ⟨⟩
      exact ⟨rfl, hstep⟩

/-! ### The fetch (spec 41_cycle.md R201, R202) -/

theorem step_of_fetch_ok {s : State} {w : Word 9} (hrun : s.status = .running) (h : fetchWord s = .ok w) :
    step s = exec (decode w) (s.fetched w) := by
  rw [step, if_pos hrun, h]

theorem step_of_fetch_error {s : State} {r : Refusal} (hrun : s.status = .running) (h : fetchWord s = .error r) :
    step s = .refused r := by
  rw [step, if_pos hrun, h]

/-- Settles O12: the fetch delivers the row at C, and the state the instruction runs in is `State.fetched`. -/
theorem stepRunsTheDecodedInstruction : Obligations.StepRunsTheDecodedInstruction := by
  rintro s i hrun hshort rfl
  exact ⟨s.fetched _, step_of_fetch_ok hrun (fetchWord_ok.mpr ⟨hshort, rfl⟩), rfl⟩

/-- Settles O13: the fetch itself is refused. -/
theorem negativeZoneFetchIsRefused : Obligations.NegativeZoneFetchIsRefused := fun _ hrun hneg =>
  step_of_fetch_error hrun (if_pos hneg)

/-! ### The overflow check (spec 41_cycle.md R216, R217) -/

theorem overflow_iff {x : Int} : overflow x = true ↔ 193710244 < |x| := by
  rw [overflow, decide_eq_true_eq, lt_abs]
  omega

theorem overflow_eq_false_iff {x : Int} : overflow x = false ↔ |x| ≤ 193710244 := by
  rw [← not_lt, ← overflow_iff, Bool.not_eq_true]

theorem accumulate_of_overflow {x : Int} {s : State} (h : 193710244 < |x|) :
    accumulate x s = .next ((s.freePhases.setS (Word.ofInt 18 x)).setStatus .stopOver) :=
  accumulate_next.mpr (.inl ⟨overflow_iff.mpr h, rfl⟩)

/-- The four overflow-checked codes other than MUL, each with its exact result on the operand `M` (42_accumulator.md
R233, R236, 43_multiply.md R263, R266). `exec_checkedSum` ties it to the model. -/
abbrev checkedSums (a : Word 5) (m : Trit) (s : State) (M : RawWord) : List (Instr × Int) :=
  [(.add a m, s.S.val + M.to18.val), (.sub a m, s.S.val - M.to18.val),
    (.mula a m, s.S.val + (mulSel M.to18 s.R).val), (.mulb a m, M.to18.val + (mulSel s.S s.R).val)]

theorem exec_checkedSum {a : Word 5} {m : Trit} {s : State} {M : RawWord} {i : Instr} {x : Int}
    (hM : framLoad s.fram (s.ea a m) = .ok M) (hi : (i, x) ∈ checkedSums a m s M) : exec i s = accumulate x s := by
  simp only [List.mem_cons, List.not_mem_nil, or_false, Prod.mk.injEq] at hi
  rcases hi with ⟨rfl, rfl⟩ | ⟨rfl, rfl⟩ | ⟨rfl, rfl⟩ | ⟨rfl, rfl⟩
  all_goals exact withOperand_ok hM

/-- Settles O44: each code ends in the overflow check of its exact result. -/
theorem checkedSumsOverflow : Obligations.CheckedSumsOverflow := by
  intro a m s hacc
  obtain ⟨M, hM⟩ := framLoad_of_accessible (fram := s.fram) hacc
  refine ⟨M, hM, fun i x hi hx => ⟨_, (exec_checkedSum hM hi).trans (accumulate_of_overflow hx), rfl⟩⟩

/-- Nine zero trits below a word multiply its value by `3^9`. -/
theorem val_atHigh (w : Word 9) : w.atHigh.val = 3 ^ 9 * w.val := by
  rw [Word.atHigh, Word.long, Word.val_append, Word.val_zero, add_zero]

/-- The selected product stays below the overflow bound, its low half being zero (43_multiply.md R259). -/
theorem abs_val_mulSel_le (x y : Word 18) : |(mulSel x y).val| ≤ 193700403 := by
  have hrange : halfRange 9 = 9841 := rfl
  have hhigh := abs_le.mp (((x.mul y).slice 1 9).abs_val_le)
  rw [mulSel, val_atHigh, abs_le]
  omega

/-- MUL's check never fires (43_multiply.md R260). -/
theorem overflow_mulSel (x y : Word 18) : overflow (mulSel x y).val = false :=
  overflow_eq_false_iff.mpr ((abs_val_mulSel_le x y).trans (by decide))

theorem exec_mul_status {a : Word 5} {m : Trit} {s t : State} (h : exec (.mul a m) s = .next t) :
    t.status = s.status := by
  obtain ⟨M, -, hM⟩ := withOperand_next.mp h
  rcases accumulate_next.mp hM with ⟨hover, -⟩ | ⟨-, rfl⟩
  · rw [overflow_mulSel] at hover
    cases hover
  · rfl

/-! ### Stops (spec 41_cycle.md R209, R215, 60_exceptions.md R361 to R364) -/

/-- The stopped states an instruction can answer from `s`, one constructor for each stop (R361). `exec_stop` ties it to
the model. -/
inductive ExecStop (s : State) : Instr → State → Prop where
  /-- HLT loads R and stops (42_accumulator.md R245). -/
  | stopDone {a : Word 5} {m : Trit} {v : Word 18} : ExecStop s (.hlt a m) ((s.setR v).setStatus .stopDone)
  /-- A checked sum out of range writes S and the scratch alone (41_cycle.md R217). -/
  | stopOver {i : Instr} {v : Word 18} (hi : ∃ a m, i = .add a m ∨ i = .sub a m ∨ i = .mula a m ∨ i = .mulb a m) :
      ExecStop s i ((s.freePhases.setS v).setStatus .stopOver)
  /-- A reserved code writes the status alone (47_transfer_io.md R347). -/
  | stopError {i : Instr} (hi : ∃ a m, i = .rsv11 a m ∨ i = .rsv12 a m ∨ i = .rsv13 a m) :
      ExecStop s i (s.setStatus .stopError)

/-- Every way an instruction can stop a running machine: all other effects keep the status. -/
theorem exec_stop {i : Instr} {s t : State} (hrun : s.status = .running) (h : exec i s = .next t)
    (hstop : t.status ≠ .running) : ExecStop s i t := by
  cases exec_effect h with
  | halts => exact .stopDone
  | reserved hi => exact .stopError hi
  | checkedSum hi hsum =>
    rcases accumulate_next.mp hsum with ⟨-, rfl⟩ | ⟨-, rfl⟩
    · exact .stopOver hi
    · exact absurd hrun hstop
  | product => exact absurd ((exec_mul_status h).trans hrun) hstop
  | writesS | loadsR | movesC | storesC | storesSigned | normalizes | writesF | toDrum | toFram =>
    exact absurd hrun hstop

theorem exec_hlt_status {a : Word 5} {m : Trit} {s t : State} (h : exec (.hlt a m) s = .next t) :
    t.status = .stopDone := by
  obtain ⟨M, -, hM⟩ := withOperand_next.mp h
  rw [stopWith_next.mp hM, State.setStatus_status]

theorem exec_reserved_status {i : Instr} {s t : State} (hi : ∃ a m, i = .rsv11 a m ∨ i = .rsv12 a m ∨ i = .rsv13 a m)
    (h : exec i s = .next t) : t.status = .stopError := by
  obtain ⟨a, m, rfl | rfl | rfl⟩ := hi
  all_goals rw [stopWith_next.mp h, State.setStatus_status]

theorem ExecStop.hlt_of_stopDone {i : Instr} {s t : State} (h : ExecStop s i t) (hst : t.status = .stopDone) :
    ∃ a m, i = .hlt a m := by
  cases h with
  | stopDone => exact ⟨_, _, rfl⟩
  | stopOver | stopError => simp at hst

theorem ExecStop.reserved_of_stopError {i : Instr} {s t : State} (h : ExecStop s i t)
    (hst : t.status = .stopError) : ∃ a m, i = .rsv11 a m ∨ i = .rsv12 a m ∨ i = .rsv13 a m := by
  cases h with
  | stopError hi => exact hi
  | stopDone | stopOver => simp at hst

theorem ExecStop.checkedSum_of_stopOver {i : Instr} {s t : State} (h : ExecStop s i t)
    (hst : t.status = .stopOver) : ∃ a m, i = .add a m ∨ i = .sub a m ∨ i = .mula a m ∨ i = .mulb a m := by
  cases h with
  | stopOver hi => exact hi
  | stopDone | stopError => simp at hst

/-- Settles O16: a status other than RUNNING names its stop, and HLT and the reserved codes always stop. -/
theorem stopsComeOnlyFromTheirInstructions : Obligations.StopsComeOnlyFromTheirInstructions := by
  intro i s t hrun h
  have hstop : t.status ≠ .running → ExecStop s i t := exec_stop hrun h
  refine ⟨⟨fun hst => (hstop (by simp [hst])).hlt_of_stopDone hst, ?_⟩,
    ⟨fun hst => (hstop (by simp [hst])).reserved_of_stopError hst, fun hi => exec_reserved_status hi h⟩,
    fun hst => ?_⟩
  · rintro ⟨a, m, rfl⟩
    exact exec_hlt_status h
  · obtain ⟨a, m, hi⟩ := (hstop (by simp [hst])).checkedSum_of_stopOver hst
    exact ⟨a, m, by tauto⟩

/-- Settles O17: the fetch writes K and MR alone, and each stop writes the one register it names. -/
theorem stopLeavesCAtTheInstruction : Obligations.StopLeavesCAtTheInstruction := by
  intro s t h hstop
  obtain ⟨hrun, w, -, hexec⟩ := step_next.mp h
  generalize decode w = i at hexec
  cases exec_stop (s := s.fetched w) hrun hexec hstop with
  | stopDone | stopOver | stopError => simp

/-! ### Continue (spec 41_cycle.md R212) -/

theorem branchIf_continues {c : Bool} {a : Word 5} {m : Trit} {s t : State} (h : branchIf c a m s = .next t)
    (hc : c ≠ true) : t.C = nextAddress s.C := by
  rcases branchIf_next.mp h with ⟨htaken, -⟩ | ⟨-, rfl⟩
  · exact absurd htaken hc
  · rfl

/-- A checked result that does not stop the machine advances C. -/
theorem accumulate_continues {x : Int} {s t : State} (h : accumulate x s = .next t) (hrun : t.status = .running) :
    t.C = nextAddress s.C := by
  rcases accumulate_next.mp h with ⟨-, rfl⟩ | ⟨-, rfl⟩
  · simp at hrun
  · rfl

/-- Settles O18: of the effects that leave C, or move it elsewhere, two are stops and the others are jumps taken. -/
theorem continueAdvancesC : Obligations.ContinueAdvancesC := by
  intro i s t h hrun hjump
  cases exec_effect h with
  | writesS | loadsR | storesC | storesSigned | normalizes | writesF | toDrum | toFram => rfl
  | checkedSum _ hsum => exact accumulate_continues hsum hrun
  | product hsum => rw [accumulate_continues hsum hrun, State.setR_C]
  | halts | reserved => simp at hrun
  | movesC hi =>
    obtain ⟨a, m, rfl | rfl | rfl | rfl | rfl⟩ := hi
    · exact branchIf_continues h fun hW => hjump ⟨a, m, by simpa using hW⟩
    · exact branchIf_continues h fun hW => hjump ⟨a, m, by simpa using hW⟩
    · exact branchIf_continues h fun hW => hjump ⟨a, m, by simpa using hW⟩
    · exact absurd ⟨a, m, .inl rfl⟩ hjump
    · rw [continueStep_next.mp h]
      rfl

/-! ### The control transform (spec 41_cycle.md R204, R205) -/

/-- The value of an address is the one representative of its class modulo `3^5` in -121..121. -/
theorem val_eq_bmod {a : Word 5} {n : Int} (h : a.val ≡ n [ZMOD 3 ^ 5]) : a.val = Int.bmod n 243 := by
  have hrange : halfRange 5 = 121 := rfl
  have ha := abs_le.mp a.abs_val_le
  rw [Int.ModEq] at h
  rw [Int.bmod]
  omega

theorem val_ofInt_five (n : Int) : (Word.ofInt 5 n).val = Int.bmod n 243 := val_eq_bmod (Word.val_ofInt_modEq 5 n)

theorem val_effectiveAddress (a : Word 5) (m : Trit) (F : Word 5) :
    (effectiveAddress a m F).val = Int.bmod (a.val + m.toInt * F.val) 243 := by
  cases m with
  | neg => rw [effectiveAddress, val_ofInt_five, Trit.toInt, neg_one_mul, sub_eq_add_neg]
  | zero => rw [effectiveAddress, Trit.toInt, zero_mul, add_zero, ← val_eq_bmod (Int.ModEq.refl _)]
  | pos => rw [effectiveAddress, val_ofInt_five, Trit.toInt, one_mul]

theorem controlTransform_of_zero {K : Word 9} (F : Word 5) (h : K.get 9 = .zero) : controlTransform K F = K := by
  rw [controlTransform, h]

theorem controlTransform_of_ne_zero {K : Word 9} (F : Word 5) (h : K.get 9 ≠ .zero) :
    controlTransform K F = (effectiveAddress (K.slice 1 5) (K.get 9) F).append (Word.zero 4) := by
  unfold controlTransform
  cases hm : K.get 9 with
  | zero => exact absurd hm h
  | neg | pos => rfl

/-- Settles O22: the two cases of the transform, with the fields the decoder reads from K. -/
theorem controlTransformModifiesTheAddress : Obligations.ControlTransformModifiesTheAddress := by
  refine ⟨val_effectiveAddress, fun K F => ?_⟩
  obtain ⟨haddress, -, hmodifier⟩ := decode_fields K
  rw [haddress, hmodifier]
  by_cases h : K.get 9 = .zero
  · rw [controlTransform_of_zero F h, h]
    exact ⟨rfl, fun hne => absurd rfl hne, fun _ => rfl⟩
  · rw [controlTransform_of_ne_zero F h]
    exact ⟨Word.slice_append_left _ _, fun _ => Word.slice_append_right _ _, fun hz => absurd hz h⟩

/-! ### Stepping through FRAM (spec 41_cycle.md R213, R214) -/

/-- The address after a long one is page 0 of its row. -/
theorem ofInt_succ_of_long {a : Word 5} (h : a.get 5 = .neg) :
    (Word.ofInt 5 (a.val + 1)).get 5 ≠ .neg ∧ page (Word.ofInt 5 (a.val + 1)) = 0 ∧
      row (Word.ofInt 5 (a.val + 1)) = row a := by
  have hsucc : a.val + 1 = 3 * ((row a : Int) - 40) + (0 : Nat) := by
    rw [val_eq_row, h, Trit.toInt]
    omega
  have hrow := row_le a
  rw [hsucc]
  exact (short_iff_val (by omega)).mpr (val_ofInt_short (by omega) (by omega))

/-- The second increment of R213 leaves the negative zone, which the first may have entered. -/
theorem nextAddress_short (c : Word 5) : (nextAddress c).get 5 ≠ .neg := by
  unfold nextAddress
  split
  · next hneg => exact (ofInt_succ_of_long hneg).1
  · next hshort => exact hshort

/-- From page 1 of row 80 stepping wraps to page 0 of row 0: 121 + 1 is the long address -121, which is skipped. -/
theorem nextAddress_of_last {c : Word 5} (h : c.get 5 ≠ .neg ∧ page c = 1 ∧ row c = 80) :
    page (nextAddress c) = 0 ∧ row (nextAddress c) = 0 := by
  have hval : (Word.ofInt 5 (c.val + 1)).val = -121 := by
    rw [val_ofInt_five, (short_iff_val (by omega)).mp h]
    rfl
  have hrow := val_eq_row (Word.ofInt 5 (c.val + 1))
  have htrit := ((Word.ofInt 5 (c.val + 1)).get 5).toInt_cases
  have hneg : (Word.ofInt 5 (c.val + 1)).get 5 = .neg := by
    apply Trit.toInt_injective
    rw [Trit.toInt]
    omega
  obtain ⟨-, hpage, hnext⟩ := ofInt_succ_of_long hneg
  rw [hneg, Trit.toInt] at hrow
  rw [nextAddress, if_pos hneg]
  exact ⟨hpage, by omega⟩

theorem nextAddress_of_page_one_mod {c : Word 5} (hshort : c.get 5 ≠ .neg) (hpage : page c = 1) :
    page (nextAddress c) = 0 ∧ row (nextAddress c) = (row c + 1) % 81 := by
  rcases (row_le c).lt_or_eq with hlt | hlast
  · obtain ⟨-, hpage', hrow⟩ := nextAddress_of_page_one ⟨hshort, hpage, rfl⟩ hlt
    exact ⟨hpage', by omega⟩
  · obtain ⟨hpage', hrow⟩ := nextAddress_of_last ⟨hshort, hpage, hlast⟩
    exact ⟨hpage', by omega⟩

/-- The place of a short address in the order of stepping: the rows in turn, page 0 of each before page 1. -/
def place (c : Word 5) : Nat := 2 * row c + page c

theorem place_eq_iff (c : Word 5) {p r : Nat} (hp : p < 2) : place c = 2 * r + p ↔ page c = p ∧ row c = r := by
  have := page_le c
  unfold place
  omega

theorem place_lt (c : Word 5) : place c < 162 := by
  have := page_le c
  have := row_le c
  unfold place
  omega

theorem place_injective {c c' : Word 5} (h : c.get 5 ≠ .neg) (h' : c'.get 5 ≠ .neg) (heq : place c = place c') :
    c = c' := by
  obtain ⟨hpage, hrow⟩ := (place_eq_iff c (by have := page_le c'; omega)).mp heq
  apply Word.val_injective
  rw [val_of_short h, val_of_short h', hpage, hrow]

/-- Each step goes to the next of the 162 places, the last before the first (R214). -/
theorem place_nextAddress {c : Word 5} (h : c.get 5 ≠ .neg) : place (nextAddress c) = (place c + 1) % 162 := by
  have hrow := row_le c
  obtain hpage | hpage : page c = 0 ∨ page c = 1 := by have := page_le c; omega
  · obtain ⟨-, hpage', hrow'⟩ := nextAddress_of_page_zero ⟨h, hpage, rfl⟩
    rw [place, place, hpage, hpage', hrow']
    omega
  · obtain ⟨hpage', hrow'⟩ := nextAddress_of_page_one_mod h hpage
    rw [place, place, hpage, hpage', hrow']
    omega

theorem place_iterate {c : Word 5} (h : c.get 5 ≠ .neg) (k : Nat) :
    (nextAddress^[k] c).get 5 ≠ .neg ∧ place (nextAddress^[k] c) = (place c + k) % 162 := by
  induction k with
  | zero => exact ⟨h, (Nat.mod_eq_of_lt (place_lt c)).symm⟩
  | succ k ih =>
    obtain ⟨hshort, hplace⟩ := ih
    rw [Function.iterate_succ_apply']
    refine ⟨nextAddress_short _, ?_⟩
    rw [place_nextAddress hshort, hplace]
    omega

/-- Settles O29: `k` steps move the place by `k` modulo 162, and each of the 162 places is one row of one page. -/
theorem steppingVisitsEveryRowOnce : Obligations.SteppingVisitsEveryRowOnce := by
  refine ⟨nextAddress_short, fun c h => ⟨fun hpage => ?_, nextAddress_of_page_one_mod h, ?_, fun p r hp hr => ?_⟩⟩
  · exact (nextAddress_of_page_zero ⟨h, hpage, rfl⟩).2
  · obtain ⟨hshort, hplace⟩ := place_iterate h 162
    rw [Nat.add_mod_right, Nat.mod_eq_of_lt (place_lt c)] at hplace
    exact place_injective hshort h hplace
  · have hlt := place_lt c
    simp only [← place_eq_iff _ hp, (place_iterate h _).2]
    exact ⟨(2 * r + p + 162 - place c) % 162, by omega, fun k hk => by omega⟩

end Sys2Proof.Machine

/-! ### XOR as arithmetic (spec 40_alu.md R144, R145) -/

namespace Sys2Proof

/-- XOR_TABLE read as arithmetic, on all nine pairs (40_alu.md R144, decision D10). -/
theorem Trit.toInt_xor (a b : Trit) : (a.xor b).toInt = -max (-1) (min 1 (a.toInt + b.toInt)) := by
  cases a <;> cases b <;> rfl

theorem Trit.zero_xor (t : Trit) : Trit.zero.xor t = t.not := by cases t <;> rfl

/-- Below a short operand, whose positions there are zero (20_memory.md R79), XOR negates. -/
theorem RawWord.get_to18_short_xor (w : Word 9) (S : Word 18) {i : Int} (hi : 9 < i) :
    ((RawWord.short w).to18.xor S).get i = (S.get i).not := by
  rw [Word.get_xor, RawWord.get_to18_short, if_neg (not_le.mpr hi), Trit.zero_xor]

end Sys2Proof

/-! ### Accumulator and multiply codes in range (spec 42_accumulator.md, 43_multiply.md) -/

namespace Sys2Proof.Machine

/-- The accumulator write of R230 ends in one state: W is the sign of the value written, and C advances (decision D7). -/
theorem continueStep_setSAndW (s : State) (v : Word 18) :
    continueStep (s.setSAndW v) = .next { s with S := v, W := Trit.ofSign v.val, C := nextAddress s.C } := by
  rw [← v.sgn_eq_ofSign]
  rfl

theorem exec_lds {a : Word 5} {m : Trit} {s : State} {M : RawWord} (hM : framLoad s.fram (s.ea a m) = .ok M) :
    exec (.lds a m) s =
      .next { s with S := M.to18, W := Trit.ofSign M.to18.val, C := nextAddress s.C } :=
  (withOperand_ok hM).trans (continueStep_setSAndW s M.to18)

theorem exec_ldr {a : Word 5} {m : Trit} {s : State} {M : RawWord} (hM : framLoad s.fram (s.ea a m) = .ok M) :
    exec (.ldr a m) s = .next { s with R := M.to18, C := nextAddress s.C } := withOperand_ok hM

theorem exec_hlt {a : Word 5} {m : Trit} {s : State} {M : RawWord} (hM : framLoad s.fram (s.ea a m) = .ok M) :
    exec (.hlt a m) s = .next { s with R := M.to18, status := .stopDone } := withOperand_ok hM

theorem exec_xor {a : Word 5} {m : Trit} {s : State} {M : RawWord} (hM : framLoad s.fram (s.ea a m) = .ok M) :
    exec (.xor a m) s =
      .next { s with S := M.to18.xor s.S, W := Trit.ofSign (M.to18.xor s.S).val, C := nextAddress s.C } :=
  (withOperand_ok hM).trans (continueStep_setSAndW s (M.to18.xor s.S))

/-- `193710244` is `H_18` (41_cycle.md R216). -/
theorem val_ofInt_of_inRange {x : Int} (h : |x| ≤ 193710244) : (Word.ofInt 18 x).val = x :=
  Word.val_ofInt_of_abs_le h

/-- An exact result in range is not wrapped: W is its sign, and C advances (41_cycle.md R216). -/
theorem accumulate_of_inRange {x : Int} {s : State} (h : |x| ≤ 193710244) :
    accumulate x s =
      .next { s.freePhases with S := Word.ofInt 18 x, W := Trit.ofSign x, C := nextAddress s.C } := by
  rw [accumulate, overflow_eq_false_iff.mpr h, if_neg Bool.false_ne_true, continueStep_setSAndW,
    val_ofInt_of_inRange h]
  rfl

/-- Settles O40: the operand that an accessible address delivers is the new S. -/
theorem loadSTakesTheOperand : Obligations.LoadSTakesTheOperand := by
  intro a m s hacc
  obtain ⟨M, hM⟩ := framLoad_of_accessible (fram := s.fram) hacc
  exact ⟨M, hM, exec_lds hM⟩

/-- Settles O41: both codes load R with the operand and differ in how the step ends. -/
theorem loadRAndHalt : Obligations.LoadRAndHalt := by
  intro a m s hacc
  obtain ⟨M, hM⟩ := framLoad_of_accessible (fram := s.fram) hacc
  exact ⟨M, hM, exec_ldr hM, exec_hlt hM⟩

/-- Settles O42: position by position, by the arithmetic reading of XOR_TABLE; the positions below a short operand are
zero. -/
theorem xorCombinesTritByTrit : Obligations.XorCombinesTritByTrit := by
  intro a m s hacc
  obtain ⟨M, hM⟩ := framLoad_of_accessible (fram := s.fram) hacc
  refine ⟨M, _, hM, exec_xor hM, fun i => ?_, ?_, rfl⟩
  · rw [Word.get_xor, Trit.toInt_xor]
  · rintro w rfl i hi
    exact RawWord.get_to18_short_xor w s.S hi

/-- Settles O43: each code ends in the overflow check of its exact result, which passes. -/
theorem checkedSumsInRange : Obligations.CheckedSumsInRange := by
  intro a m s hacc
  obtain ⟨M, hM⟩ := framLoad_of_accessible (fram := s.fram) hacc
  refine ⟨M, hM, fun i x hi hx => ?_⟩
  exact ⟨_, (exec_checkedSum hM hi).trans (accumulate_of_inRange hx), val_ofInt_of_inRange hx, rfl⟩

end Sys2Proof.Machine

/-! ### The selected product and MUL (spec 43_multiply.md R259, R260) -/

namespace Sys2Proof

namespace Word

variable {L : Nat}

/-- A word is made of its high `m` trits and its low `n` trits. -/
theorem append_slices {m n : Nat} (w : Word (m + n)) : (w.slice 1 m).append (w.slice (m + 1) n) = w :=
  ext_get fun i h1 h2 => by
    rw [get_append, get_slice, get_slice]
    split
    · rw [if_pos ⟨h1, by omega⟩]; congr 1; omega
    · rw [if_pos (by omega)]; congr 1; omega

/-- Cutting off the low `n` trits rounds to nearest: what is cut is the value of a balanced word (00_scope.md R13). -/
theorem two_mul_abs_val_sub_high_lt {m n : Nat} (w : Word L) (hL : L = m + n) :
    2 * |w.val - 3 ^ n * (w.slice 1 m).val| < 3 ^ n := by
  subst hL
  have hcut : w.val - 3 ^ n * (w.slice 1 m).val = (w.slice (m + 1) n).val := by
    rw [sub_eq_iff_eq_add', ← val_append, append_slices]
  have hlow := (w.slice (m + 1) n).abs_val_le
  rw [hcut, three_pow_eq]
  omega

/-- The double length holds every product (40_alu.md R154). -/
theorem val_mul {m n : Nat} (a : Word m) (b : Word n) : (a.mul b).val = a.val * b.val :=
  val_ofInt_of_abs_le (abs_mul_val_le a b)

end Word

end Sys2Proof

namespace Sys2Proof.Machine

/-- MulSel in numbers: the high 9 trits of the product, scaled (43_multiply.md R259, decision D8). -/
theorem val_mulSel (x y : Word 18) : (mulSel x y).val = 3 ^ 9 * ((x.mul y).slice 1 9).val := by
  rw [mulSel, val_atHigh]

/-- Settles O39: the integer is the value of the product's high 9 trits, and its low 27 trits are the rounding error. -/
theorem mulSelRoundsTheProduct : Obligations.MulSelRoundsTheProduct := by
  intro x y
  refine ⟨((x.mul y).slice 1 9).val, val_mulSel x y, ?_, abs_val_mulSel_le x y⟩
  rw [← Word.val_mul]
  exact (x.mul y).two_mul_abs_val_sub_high_lt rfl

/-- MUL runs to its end: its result is in range, so the overflow check writes it unwrapped (43_multiply.md R260,
decision D25). -/
theorem exec_mul {a : Word 5} {m : Trit} {s : State} {M : RawWord} (hM : framLoad s.fram (s.ea a m) = .ok M) :
    exec (.mul a m) s =
      .next { s.freePhases with
        R := (s.S.slice 1 9).atHigh
        S := mulSel M.to18 (s.S.slice 1 9).atHigh
        W := Trit.ofSign (mulSel M.to18 (s.S.slice 1 9).atHigh).val
        C := nextAddress s.C } := by
  have hrange : |(mulSel M.to18 (s.S.slice 1 9).atHigh).val| ≤ 193710244 :=
    (abs_val_mulSel_le _ _).trans (by decide)
  calc
    exec (.mul a m) s = accumulate (mulSel M.to18 (s.S.slice 1 9).atHigh).val (s.setR (s.S.slice 1 9).atHigh) :=
      withOperand_ok hM
    _ = _ := by
      rw [accumulate_of_inRange hrange, Word.ofInt_val]
      rfl

/-- Settles O45: the operand is delivered, and MUL runs to its end on it. -/
theorem mulNeverOverflows : Obligations.MulNeverOverflows := by
  intro a m s hacc
  obtain ⟨M, hM⟩ := framLoad_of_accessible (fram := s.fram) hacc
  exact ⟨M, _, hM, exec_mul hM, rfl, rfl, rfl⟩

end Sys2Proof.Machine

/-! ### Control transfer and STC (spec 44_control.md) -/

namespace Sys2Proof.Machine

theorem branchIf_taken {p : Prop} [Decidable p] (h : p) (a : Word 5) (m : Trit) (s : State) :
    branchIf (decide p) a m s = .next { s with C := s.ea a m } :=
  branchIf_next.mpr (.inl ⟨decide_eq_true h, rfl⟩)

theorem branchIf_not_taken {p : Prop} [Decidable p] (h : ¬p) (a : Word 5) (m : Trit) (s : State) :
    branchIf (decide p) a m s = .next { s with C := nextAddress s.C } :=
  branchIf_next.mpr (.inr ⟨decide_eq_false h, rfl⟩)

/-- Settles O46: BZ, BP and BN are the two ends of `branchIf` on their sign of W, and JMP is its jump alone. -/
theorem branchesFollowW : Obligations.BranchesFollowW := fun a m s =>
  ⟨fun hzero => branchIf_taken hzero a m s, fun hzero => branchIf_not_taken hzero a m s,
    fun hpos => branchIf_taken hpos a m s, fun hpos => branchIf_not_taken hpos a m s,
    fun hneg => branchIf_taken hneg a m s, fun hneg => branchIf_not_taken hneg a m s,
    jumpTo_next.mpr rfl⟩

/-- At an accessible address a storing arm goes on to its rest, with the stored rows in FRAM (20_memory.md R81). -/
theorem storeAndThen_completes {L : Nat} {a : Word 5} {s : State} (hcanon : s.canonical) (hacc : accessible a)
    (v : Word L) (k : State → StepOutcome State) :
    ∃ fram', storeAndThen a v s k = k (s.setFram fram') ∧ rowsAfterStore s.fram fram' a (v.resize 18) := by
  obtain ⟨hwf, -⟩ := hcanon
  obtain ⟨fram', hs⟩ := framStore_of_accessible (fram := s.fram) (v := v) hacc
  exact ⟨fram', storeAndThen_ok hs, framStore_rows hwf hs⟩

/-- Settles O47: the rest of STC only advances C, so the C it stores is its own address. -/
theorem storeCStoresItsOwnAddress : Obligations.StoreCStoresItsOwnAddress := by
  intro a m s hcanon hacc
  obtain ⟨fram', hstore, hrows⟩ := storeAndThen_completes hcanon hacc s.C continueStep
  exact ⟨fram', hstore.trans (continueStep_next.mpr rfl), hrows⟩

end Sys2Proof.Machine

/-! ### The index register (spec 45_index.md) -/

namespace Sys2Proof.Machine

/-- The last write of STF and STS: W takes the sign of the word stored, and C advances (45_index.md R300). -/
theorem continueStep_setW_sgn {L : Nat} (s : State) (v : Word L) :
    continueStep (s.setW v.sgn) = .next { s with W := Trit.ofSign v.val, C := nextAddress s.C } := by
  rw [← v.sgn_eq_ofSign]
  rfl

/-- Settles O48: F is stored at the accessible address, and the rest of STF runs on the state with the stored rows. -/
theorem storeFStoresF : Obligations.StoreFStoresF := by
  intro a m s hcanon hacc
  obtain ⟨fram', hstore, hrows⟩ :=
    storeAndThen_completes hcanon hacc s.F fun s' => continueStep (s'.setW s.F.sgn)
  exact ⟨fram', hstore.trans (continueStep_setW_sgn (s.setFram fram') s.F), hrows⟩

/-- The index write of R299 ends in one state: W is the sign of the value written, and C advances. -/
theorem continueStep_setFAndW (s : State) (v : Word 5) :
    continueStep (s.setFAndW v) = .next { s with F := v, W := Trit.ofSign v.val, C := nextAddress s.C } := by
  rw [← v.sgn_eq_ofSign]
  rfl

/-- The three codes that write F, each with its exact sum on the operand `M` (45_index.md R303, R306, R309).
`exec_indexSum` ties it to the model. -/
abbrev indexSums (a : Word 5) (m : Trit) (s : State) (M : RawWord) : List (Instr × Int) :=
  [(.ldf a m, M.trunc5.val), (.lfc a m, s.C.val + M.trunc5.val), (.adf a m, s.F.val + M.trunc5.val)]

/-- Each of the three codes writes its exact sum, wrapped to five trits, to F. For LDF nothing is lost: the sum is the
value of a five-trit word. -/
theorem exec_indexSum {a : Word 5} {m : Trit} {s : State} {M : RawWord} {i : Instr} {x : Int}
    (hM : framLoad s.fram (s.ea a m) = .ok M) (hi : (i, x) ∈ indexSums a m s M) :
    exec i s = continueStep (s.setFAndW (Word.ofInt 5 x)) := by
  simp only [List.mem_cons, List.not_mem_nil, or_false, Prod.mk.injEq] at hi
  rcases hi with ⟨rfl, rfl⟩ | ⟨rfl, rfl⟩ | ⟨rfl, rfl⟩
  · rw [Word.ofInt_val]
    exact withOperand_ok hM
  · exact withOperand_ok hM
  · exact withOperand_ok hM

/-- Settles O51: each code writes its wrapped sum to F, and wrapping to five trits is the residue modulo 3^5. -/
theorem indexLoadsAndSums : Obligations.IndexLoadsAndSums := by
  intro a m s hacc
  obtain ⟨M, hM⟩ := framLoad_of_accessible (fram := s.fram) hacc
  refine ⟨M, hM, fun i x hi => ?_⟩
  exact ⟨_, (exec_indexSum hM hi).trans (continueStep_setFAndW s (Word.ofInt 5 x)), val_ofInt_five x, rfl⟩

end Sys2Proof.Machine

/-! ### Shift, store S and normalization (spec 46_shift_store_norm.md) -/

namespace Sys2Proof

namespace Word

variable {L : Nat}

/-- A shift moves the trits that stay inside and fills the rest with zeros (40_alu.md R157, decision D32). -/
theorem get_shift_of_mem (w : Word L) (d : Int) {i : Int} (h1 : 1 ≤ i) (h2 : i ≤ L) :
    (w.shift d).get i = if 1 ≤ i - d ∧ i - d ≤ L then w.get (i - d) else .zero := by
  rw [get_shift, if_pos ⟨h1, h2⟩]
  split
  · rfl
  · next hout => exact w.get_of_not_mem hout

theorem mem_of_get_ne_zero {w : Word L} {i : Int} (h : w.get i ≠ .zero) : 1 ≤ i ∧ i ≤ L := by
  by_contra hout
  exact h (w.get_of_not_mem hout)

/-- A nonzero word has a first nonzero trit. -/
theorem exists_first_nonzero {w : Word L} (h : w ≠ zero L) :
    ∃ j, w.get j ≠ .zero ∧ ∀ i, i < j → w.get i = .zero := by
  have hex : ∃ n : Nat, w.get n ≠ .zero := by
    by_contra hall
    push Not at hall
    refine h (ext_get fun i h1 _ => ?_)
    rw [get_zero, ← Int.toNat_of_nonneg (show 0 ≤ i by omega)]
    exact hall i.toNat
  refine ⟨Nat.find hex, Nat.find_spec hex, fun i hi => ?_⟩
  by_cases h1 : i < 1
  · exact w.get_of_lt h1
  · rw [← Int.toNat_of_nonneg (show 0 ≤ i by omega)]
    exact not_not.mp (Nat.find_min hex (show i.toNat < Nat.find hex by omega))

end Word

end Sys2Proof

namespace Sys2Proof.Machine

theorem leadingZeros_eq {ts : List Trit} {n : Nat} (hn : ts.getD n .zero ≠ .zero)
    (hlow : ∀ k < n, ts.getD k .zero = .zero) : leadingZeros ts = n := by
  induction ts generalizing n with
  | nil => simp at hn
  | cons t ts ih =>
    cases n with
    | zero => exact if_neg hn
    | succ n =>
      have ht : t = .zero := hlow 0 n.succ_pos
      rw [leadingZeros, if_pos ht, ih hn fun k hk => hlow (k + 1) (Nat.succ_lt_succ hk)]

/-- The zeros a word begins with end one place before its first nonzero trit. -/
theorem leadingZeros_trits {L : Nat} {w : Word L} {j : Int} (hj : w.get j ≠ .zero)
    (hlow : ∀ i, i < j → w.get i = .zero) : (leadingZeros w.trits : Int) = j - 1 := by
  obtain ⟨h1, -⟩ := Word.mem_of_get_ne_zero hj
  rw [w.get_eq_getD h1] at hj
  have hcount : leadingZeros w.trits = (j - 1).toNat := leadingZeros_eq hj fun k hk => by
    have hk' := hlow (k + 1) (by omega)
    rwa [w.get_eq_getD (by omega), Int.add_sub_cancel, Int.toNat_natCast] at hk'
  omega

theorem normCount_zero : normCount (Word.zero 18) = 0 := by
  unfold normCount
  exact if_pos (.inl rfl)

/-- The three nonzero cases of R326 are one: with the first nonzero trit at position j, the count is `2 - j`. -/
theorem normCount_eq {S : Word 18} {j : Int} (hj : S.get j ≠ .zero) (hlow : ∀ i, i < j → S.get i = .zero) :
    normCount S = 2 - j := by
  obtain ⟨h1, -⟩ := Word.mem_of_get_ne_zero hj
  have hne : S ≠ Word.zero 18 := by
    rintro rfl
    exact hj (Word.get_zero j)
  unfold normCount
  obtain rfl | rfl | h3 : j = 1 ∨ j = 2 ∨ 3 ≤ j := by omega
  · rw [if_neg (by simp [hne, hj]), if_pos hj]
    rfl
  · rw [if_pos (.inr ⟨hlow 1 (by omega), hj⟩)]
    rfl
  · rw [if_neg (by simp [hne, hlow 2 (by omega)]), if_neg (by simp [hlow 1 (by omega)]),
      leadingZeros_trits hj hlow]
    omega

theorem normCount_of_normalized {S : Word 18} (h1 : S.get 1 = .zero) (h2 : S.get 2 ≠ .zero) : normCount S = 0 :=
  normCount_eq h2 fun i hi => by
    obtain rfl | hi : i = 1 ∨ i < 1 := by omega
    · exact h1
    · exact S.get_of_lt hi

theorem normCount_of_get_one {S : Word 18} (h1 : S.get 1 ≠ .zero) : normCount S = 1 :=
  normCount_eq h1 fun _ => S.get_of_lt

/-- A word stands at most 16 places below its normalized position and at most one above it. -/
theorem normCount_bounds (S : Word 18) : -16 ≤ normCount S ∧ normCount S ≤ 1 := by
  by_cases hS : S = Word.zero 18
  · rw [hS, normCount_zero]
    decide
  · obtain ⟨j, hj, hlow⟩ := Word.exists_first_nonzero hS
    obtain ⟨h1, h18⟩ := Word.mem_of_get_ne_zero hj
    rw [normCount_eq hj hlow]
    omega

/-- S has room for every count. -/
theorem val_ofInt_normCount (S : Word 18) : (Word.ofInt 18 (normCount S)).val = normCount S := by
  obtain ⟨hlo, hhi⟩ := normCount_bounds S
  exact val_ofInt_of_inRange (abs_le.mpr (by omega))

/-- The shift by the count brings the first nonzero trit to position 2. -/
theorem shift_normCount_normalized {S : Word 18} (hS : S ≠ Word.zero 18) :
    (S.shift (normCount S)).get 1 = .zero ∧ (S.shift (normCount S)).get 2 ≠ .zero := by
  obtain ⟨j, hj, hlow⟩ := Word.exists_first_nonzero hS
  have hone : (1 : Int) - (2 - j) = j - 1 := by omega
  have htwo : (2 : Int) - (2 - j) = j := by omega
  rw [normCount_eq hj hlow, Word.get_shift, Word.get_shift, if_pos (by decide), if_pos (by decide), hone, htwo]
  exact ⟨hlow (j - 1) (by omega), hj⟩

theorem exec_shf {a : Word 5} {m : Trit} {s : State} {M : RawWord} (hM : framLoad s.fram (s.ea a m) = .ok M) :
    exec (.shf a m) s =
      .next { s with
        S := s.S.shift M.val, W := Trit.ofSign (s.S.shift M.val).val, C := nextAddress s.C } :=
  (withOperand_ok hM).trans (continueStep_setSAndW s (s.S.shift M.val))

/-- An 18-trit value is stored as it is (20_memory.md R81). -/
theorem storeAndThen_word18 {a : Word 5} {s : State} (hcanon : s.canonical) (hacc : accessible a)
    (v : Word 18) (k : State → StepOutcome State) :
    ∃ fram', storeAndThen a v s k = k (s.setFram fram') ∧ rowsAfterStore s.fram fram' a v := by
  have hstore := storeAndThen_completes hcanon hacc v k
  rwa [Word.resize_self] at hstore

/-- NRM completes with the count itself as the value of S, which has room for it, and its sign in W (decision D17). -/
theorem exec_nrm {a : Word 5} {m : Trit} {s : State} (hcanon : s.canonical) (hacc : accessible (s.ea a m)) :
    ∃ fram', exec (.nrm a m) s =
        .next { s with
          fram := fram', S := Word.ofInt 18 (normCount s.S), W := Trit.ofSign (normCount s.S),
          C := nextAddress s.C } ∧
      rowsAfterStore s.fram fram' (s.ea a m) (s.S.shift (normCount s.S)) := by
  obtain ⟨fram', hstore, hrows⟩ := storeAndThen_word18 hcanon hacc (s.S.shift (normCount s.S)) fun s' =>
    continueStep (s'.setSAndW (Word.ofInt 18 (normCount s.S)))
  have hend := continueStep_setSAndW (s.setFram fram') (Word.ofInt 18 (normCount s.S))
  rw [val_ofInt_normCount] at hend
  exact ⟨fram', hstore.trans hend, hrows⟩

/-- Settles O49: S is stored whole at the accessible address, and the rest of STS runs on the state with the stored
rows. -/
theorem storeSStoresS : Obligations.StoreSStoresS := by
  intro a m s hcanon hacc
  obtain ⟨fram', hstore, hrows⟩ :=
    storeAndThen_word18 hcanon hacc s.S fun s' => continueStep (s'.setW s.S.sgn)
  exact ⟨fram', hstore.trans (continueStep_setW_sgn (s.setFram fram') s.S), hrows⟩

/-- Settles O50: the count is that of `exec_nrm`, and each of its cases is read off `normCount_eq`. -/
theorem normalizeStoresTheNormalizedWord : Obligations.NormalizeStoresTheNormalizedWord := by
  intro a m s hcanon hacc
  obtain ⟨fram', hexec, hrows⟩ := exec_nrm hcanon hacc
  exact ⟨normCount s.S, fram', _, hexec, rfl, val_ofInt_normCount s.S, hrows,
    fun hS => hS ▸ normCount_zero, normCount_of_normalized, normCount_of_get_one,
    fun _ _ => normCount_eq, shift_normCount_normalized, normCount_bounds s.S⟩

/-- Settles O52: the operand that an accessible address delivers is the count of the shift. -/
theorem shiftMovesSByTheOperandsValue : Obligations.ShiftMovesSByTheOperandsValue := by
  intro a m s hacc
  obtain ⟨M, hM⟩ := framLoad_of_accessible (fram := s.fram) hacc
  exact ⟨M, _, hM, exec_shf hM, fun _ => s.S.get_shift_of_mem M.val, rfl⟩

end Sys2Proof.Machine

/-! ### Block transfer, I/O and the reserved codes (spec 47_transfer_io.md) -/

namespace Sys2Proof.Machine

/-- fram_to_drum leaves every drum zone but its own (20_memory.md R88). -/
theorem drumRow_framToDrum_other_zone {a : Word 5} {fram drum : Memory} {z i : Nat} (hwf : drum.wf 1944 = true)
    (hi : i < 54) (hz : z ≠ zone (a.slice 2 4)) : drumRow (framToDrum a fram drum) z i = drumRow drum z i := by
  unfold framToDrum
  exact drumRow_framToDrumFrom_other (i := 0) hwf (by omega) hi fun h => absurd h hz

/-- F2D reads nothing that could refuse it, so it completes from every state (R340). -/
theorem exec_f2d (a : Word 5) (m : Trit) (s : State) :
    exec (.f2d a m) s =
      .next { s with
        MB := (s.ea a m).slice 2 4, drum := framToDrum (s.ea a m) s.fram s.drum, C := nextAddress s.C } :=
  continueStep_next.mpr rfl

/-- D2F reads nothing that could refuse it, so it completes from every state (R342). -/
theorem exec_d2f (a : Word 5) (m : Trit) (s : State) :
    exec (.d2f a m) s =
      .next { s with
        MB := (s.ea a m).slice 2 4, fram := drumToFram (s.ea a m) s.fram s.drum, C := nextAddress s.C } :=
  continueStep_next.mpr rfl

/-- Settles O55: the drum after F2D is that of fram_to_drum, read in its own zone and in the others. -/
theorem framToDrumCopiesTheThird : Obligations.FramToDrumCopiesTheThird := by
  intro a m s
  refine ⟨_, exec_f2d a m s, ?_⟩
  rintro ⟨-, hdrum⟩
  exact ⟨fun i hi => drumRow_framToDrum hdrum hi, fun z i _ hi hz => drumRow_framToDrum_other_zone hdrum hi hz⟩

/-- Settles O56: the FRAM after D2F is that of drum_to_fram, read inside the third and outside it. -/
theorem drumToFramFillsTheThird : Obligations.DrumToFramFillsTheThird := by
  intro a m s
  refine ⟨_, exec_d2f a m s, ?_⟩
  rintro ⟨hfram, -⟩
  exact ⟨fun i hi => framRow_drumToFram hfram hi, fun p r _ hr hout => framRow_drumToFram_outside hfram hr hout⟩

/-- Settles O58: IO is the outcome Continue on the state as it is. -/
theorem ioIsANoOp : Obligations.IoIsANoOp := fun _ _ _ => continueStep_next.mpr rfl

/-- Settles O59: each of the three codes is the outcome Stopped on the state as it is. -/
theorem reservedCodesStopWithError : Obligations.ReservedCodesStopWithError := fun _ _ _ =>
  ⟨stopWith_next.mpr rfl, stopWith_next.mpr rfl, stopWith_next.mpr rfl⟩

end Sys2Proof.Machine

/-! ### Reset and the zero word at 00000 (spec 70_reset_and_hazards.md R390 to R394) -/

namespace Sys2Proof.Machine

/-- Every row of a FRAM that lists none is zero (10_state.md R44). -/
theorem framRow_nil (p r : Nat) : framRow [] p r = Word.zero 9 := rfl

/-- Every row of a DRUM that lists none is zero (10_state.md R45). -/
theorem drumRow_nil (z i : Nat) : drumRow [] z i = Word.zero 9 := rfl

/-- Settles O7: reset forgets the state it starts from, its registers are zero words and its memories list no row. -/
theorem resetZeroesEverything : Obligations.ResetZeroesEverything := fun _ =>
  ⟨State.reset, rfl, rfl, rfl, rfl, rfl, rfl, rfl, rfl, rfl, rfl, rfl, rfl, framRow_nil, drumRow_nil⟩

/-- A running machine about to fetch a zero word at `00000`, as after reset (R394). -/
structure AtZeroWord (s : State) : Prop where
  running : s.status = .running
  C_zero : s.C = Word.zero 5
  word_zero : framRow s.fram 0 40 = Word.zero 9

theorem atZeroWord_reset : AtZeroWord State.reset := ⟨rfl, rfl, framRow_nil 0 40⟩

/-- The zero word is JMP 00000 (44_control.md R289). -/
theorem decode_zero : decode (Word.zero 9) = .jmp (Word.zero 5) .zero := decode_of_encode rfl

theorem exec_jmp (a : Word 5) (m : Trit) (s : State) : exec (.jmp a m) s = .next (s.setC (s.ea a m)) := rfl

theorem AtZeroWord.fetchWord_eq {s : State} (h : AtZeroWord s) : fetchWord s = .ok (Word.zero 9) := by
  refine fetchWord_ok.mpr ⟨?_, ?_⟩
  · simp [h.C_zero]
  · rw [h.C_zero]
    exact h.word_zero.symm

/-- The jump goes to the C it is fetched from, so the fetch alone is the step. -/
theorem AtZeroWord.step_eq {s : State} (h : AtZeroWord s) : step s = .next (s.fetched (Word.zero 9)) := by
  have hC : (s.fetched (Word.zero 9)).ea (Word.zero 5) .zero = s.C := h.C_zero.symm
  rw [step_of_fetch_ok h.running h.fetchWord_eq, decode_zero, exec_jmp, hC]
  rfl

/-- The fetch writes K and the scratch MR only, which no program observes (10_state.md R33, R40). -/
theorem sameObservable_fetched (s : State) (w : Word 9) : sameObservable (s.fetched w) s := by
  simp [sameObservable]

theorem AtZeroWord.fetched {s : State} (h : AtZeroWord s) (w : Word 9) : AtZeroWord (s.fetched w) :=
  ⟨h.running, h.C_zero, h.word_zero⟩

theorem sameObservable.trans {s t u : State} (hst : sameObservable s t) (htu : sameObservable t u) :
    sameObservable s u := by
  simp_all [sameObservable]

/-- Every run comes to the host's cap unchanged, by induction on the cap: a step leads to a state of the same kind. -/
theorem AtZeroWord.hostRun_capped {s : State} (h : AtZeroWord s) (n : Nat) :
    ∃ t, hostRun n s = .capped t ∧ sameObservable t s := by
  induction n generalizing s with
  | zero => exact ⟨s, if_pos h.running, by simp [sameObservable]⟩
  | succ n ih =>
    obtain ⟨t, hrun, hobs⟩ := ih (h.fetched (Word.zero 9))
    exact ⟨t, (hostRun_succ_of_next h.step_eq n).trans hrun, hobs.trans (sameObservable_fetched s _)⟩

/-- Settles O10: the states of R394 are `AtZeroWord`, and reset is one of them. -/
theorem resetStateLoopsForever : Obligations.ResetStateLoopsForever := by
  refine ⟨fun s hrun hC hword => ?_, atZeroWord_reset.hostRun_capped⟩
  have h : AtZeroWord s := ⟨hrun, hC, hword⟩
  exact ⟨⟨_, h.step_eq, sameObservable_fetched s _⟩, h.hostRun_capped⟩

end Sys2Proof.Machine

/-! ### The host's word write (spec 70_reset_and_hazards.md R395) -/

namespace Sys2Proof.Machine

theorem hostStore_of_framStore_ok {a : Word 5} {w : Word 9} {s : State} {fram : Memory}
    (h : framStore s.fram a w = .ok fram) : hostStore a w s = .ok { s with fram := fram } := by
  rw [hostStore, h]
  rfl

theorem hostStore_of_framStore_error {a : Word 5} {w : Word 9} {s : State} {r : Refusal}
    (h : framStore s.fram a w = .error r) : hostStore a w s = .error r := by
  rw [hostStore, h]

/-- Settles O60: the host's write is FramStore, so O27's store gives the rows and the one refused address is FramStore's
own. -/
theorem hostStoreWritesOneWord : Obligations.HostStoreWritesOneWord := by
  rintro a w s ⟨hwf, -⟩
  constructor
  · intro hacc
    obtain ⟨fram', hs, -, hrows⟩ := framStoreWritesItsRowsOnly s.fram a w hwf hacc
    exact ⟨fram', hostStore_of_framStore_ok hs, hrows⟩
  · intro hrefused
    obtain ⟨hneg, hrow⟩ := Classical.not_imp.mp hrefused
    exact hostStore_of_framStore_error (framStore_error.mpr ⟨hneg, not_not.mp hrow, rfl⟩)

end Sys2Proof.Machine
